-- ==== Sys2Proof/Word.lean ====
section
/-! DEFINITION. The widths the spec gives its values: bytes (00_scope.md R8), 16-bit words (pc, I, stack
entries, opcodes: R6), 12-bit addresses, 8-bit immediates and 4-bit counts as opcode fields (R11), and
register numbers (R20). -/

namespace Sys2Proof

/-- An 8-bit value: a memory byte, a general register, a timer (R6). -/
abbrev Byte := BitVec 8

/-- A 16-bit value: `pc`, `I`, a stack entry (R6). -/
abbrev Word := BitVec 16

/-- "The raw 16-bit instruction word fetched from two consecutive memory bytes" (R12). -/
abbrev Opcode := BitVec 16

/-- The field `nnn`, a 12-bit unsigned address (R11, R82). -/
abbrev Addr12 := BitVec 12

/-- The field `n`, a 4-bit unsigned count (R11, R82). -/
abbrev Nibble := BitVec 4

/-- A register number 0x0..0xF: which of `V0`..`VF` (R20, R82). -/
abbrev Reg := Fin 16

/-- `VF`, register 15, is also the flag register (R21). -/
abbrev Reg.vf : Reg := 15

/-- `V0`, the register `Bnnn` adds (R127). -/
abbrev Reg.v0 : Reg := 0

end Sys2Proof
end

