-- ==== Sys2Proof/Config.lean ====
section
/-! DEFINITION. The implementation parameters of 00_scope.md R6 as named constants, and the one free value of
the model, the random byte of a step (10_state.md R41). The parameter `FONT` is in Machine/Font.lean. The types of
Word.lean and of `State` write the widths as numerals; Laws/State.lean holds each field against its parameter. -/

namespace Sys2Proof.Config

/-- `MEM_SIZE`: 4096 bytes, addresses 0x000 to 0xFFF. -/
abbrev memSize : Nat := 4096

/-- `NUM_V`: 16 general registers. -/
abbrev numV : Nat := 16

/-- `NUM_V`: 8 bits each. -/
abbrev regWidth : Nat := 8

/-- `PC_WIDTH`: 16 bits. -/
abbrev pcWidth : Nat := 16

/-- `I_WIDTH`: 16 bits. -/
abbrev iWidth : Nat := 16

/-- `STACK_DEPTH`: 16 entries. -/
abbrev stackDepth : Nat := 16

/-- `STACK_DEPTH`: entries of 16 bits. -/
abbrev stackEntryWidth : Nat := 16

/-- `SP_RANGE`: 0..16 inclusive; this is its upper end (D5). -/
abbrev spMax : Nat := 16

/-- `TIMER_WIDTH`: 8 bits, `DT` and `ST`. -/
abbrev timerWidth : Nat := 8

/-- `NUM_KEYS`: 16 keys. -/
abbrev numKeys : Nat := 16

/-- `FB_WIDTH`: 64 pixels. -/
abbrev fbWidth : Nat := 64

/-- `FB_HEIGHT`: 32 pixels. -/
abbrev fbHeight : Nat := 32

/-- `FONT_BASE`: 0x050. -/
abbrev fontBase : Nat := 0x050

/-- `FONT_GLYPH_BYTES`: 5. -/
abbrev fontGlyphBytes : Nat := 5

/-- `FONT_GLYPHS`: 16. -/
abbrev fontGlyphs : Nat := 16

/-- The size of the font, 16 glyphs of 5 bytes (R37). -/
abbrev fontSize : Nat := 80

/-- `PROG_BASE`: 0x200. -/
abbrev progBase : Nat := 0x200

/-- `MAX_ROM`: 4096 - 0x200 = 3584 bytes. -/
abbrev maxRom : Nat := 3584

/-- `OPCODE_WIDTH`: 16 bits. -/
abbrev opcodeWidth : Nat := 16

/-- `OPCODE_WIDTH`: two bytes. -/
abbrev opcodeBytes : Nat := 2

/-- The random byte the source delivers at its `n`-th draw, where the host has presented none: a free value.
R41: "The core assumes nothing of its value: a model treats it as a free input of the step (a draw)"; log 2. -/
opaque freeRand : Nat → Byte

end Sys2Proof.Config
end

