-- ==== Sys2Proof/Syntax.lean ====
section
/-! DEFINITION. The instructions: one constructor per row of opcode_table.json (30_encoding.md R88), operands as
30_encoding.md R82 types them. An opcode that matches no row is `UNKNOWN` (R84); it is no instruction of the
table and no constructor here (log 10). -/

namespace Sys2Proof

/-- The 34 base CHIP-8 instructions (00_scope.md R2, 30_encoding.md R88). `x`, `y` are register numbers, `kk` an
8-bit immediate, `nnn` a 12-bit address, `n` a sprite height. -/
inductive Instr where
  /-- `00E0` CLS: clear the framebuffer (R180). -/
  | cls
  /-- `00EE` RET: return from subroutine (R120). -/
  | ret
  /-- `1nnn` JP nnn: jump (R121). -/
  | jp (nnn : Addr12)
  /-- `2nnn` CALL nnn: call subroutine (R122). -/
  | call (nnn : Addr12)
  /-- `3xkk` SE Vx, kk: skip if equal to immediate (R123). -/
  | seImm (x : Reg) (kk : Byte)
  /-- `4xkk` SNE Vx, kk: skip if not equal to immediate (R124). -/
  | sneImm (x : Reg) (kk : Byte)
  /-- `5xy0` SE Vx, Vy: skip if registers equal (R125). -/
  | seReg (x y : Reg)
  /-- `6xkk` LD Vx, kk: load immediate (R140). -/
  | ldImm (x : Reg) (kk : Byte)
  /-- `7xkk` ADD Vx, kk: add immediate, no flag (R141). -/
  | addImm (x : Reg) (kk : Byte)
  /-- `8xy0` LD Vx, Vy: register copy (R142). -/
  | ldReg (x y : Reg)
  /-- `8xy1` OR Vx, Vy (R143). -/
  | orReg (x y : Reg)
  /-- `8xy2` AND Vx, Vy (R144). -/
  | andReg (x y : Reg)
  /-- `8xy3` XOR Vx, Vy (R145). -/
  | xorReg (x y : Reg)
  /-- `8xy4` ADD Vx, Vy: add with carry out (R146). -/
  | addReg (x y : Reg)
  /-- `8xy5` SUB Vx, Vy: `V[x] - V[y]` (R147). -/
  | subReg (x y : Reg)
  /-- `8xy6` SHR Vx, Vy: shift right by one; `y` is encoded and ignored (R150, R83, log 11). -/
  | shr (x y : Reg)
  /-- `8xy7` SUBN Vx, Vy: `V[y] - V[x]` (R148). -/
  | subnReg (x y : Reg)
  /-- `8xyE` SHL Vx, Vy: shift left by one; `y` is encoded and ignored (R152, R83, log 11). -/
  | shl (x y : Reg)
  /-- `9xy0` SNE Vx, Vy: skip if registers differ (R126). -/
  | sneReg (x y : Reg)
  /-- `Annn` LD I, nnn: load index (R155). -/
  | ldI (nnn : Addr12)
  /-- `Bnnn` JP V0, nnn: jump indexed by V0 (R127). -/
  | jpV0 (nnn : Addr12)
  /-- `Cxkk` RND Vx, kk: random byte masked (R156). -/
  | rnd (x : Reg) (kk : Byte)
  /-- `Dxyn` DRW Vx, Vy, n: draw sprite (R182). -/
  | drw (x y : Reg) (n : Nibble)
  /-- `Ex9E` SKP Vx: skip if key pressed (R200). -/
  | skp (x : Reg)
  /-- `ExA1` SKNP Vx: skip if key not pressed (R201). -/
  | sknp (x : Reg)
  /-- `Fx07` LD Vx, DT: read the delay timer (R205). -/
  | ldVxDt (x : Reg)
  /-- `Fx0A` LD Vx, K: wait for a key (R203). -/
  | ldVxK (x : Reg)
  /-- `Fx15` LD DT, Vx: set the delay timer (R206). -/
  | ldDtVx (x : Reg)
  /-- `Fx18` LD ST, Vx: set the sound timer (R207). -/
  | ldStVx (x : Reg)
  /-- `Fx1E` ADD I, Vx: add register to index (R157). -/
  | addI (x : Reg)
  /-- `Fx29` LD F, Vx: point `I` at a font glyph (R173). -/
  | ldF (x : Reg)
  /-- `Fx33` LD B, Vx: store BCD (R170). -/
  | ldB (x : Reg)
  /-- `Fx55` LD [I], Vx: store registers V0..Vx (R171). -/
  | ldMemVx (x : Reg)
  /-- `Fx65` LD Vx, [I]: load registers V0..Vx (R172). -/
  | ldVxMem (x : Reg)
  deriving DecidableEq, Repr

end Sys2Proof
end

