-- ==== Sys2Proof/Decode.lean ====
section
/-! DEFINITION. The decoder (30_encoding.md R84, R85), total on any bytes and refusing by name, the encoder
written from the same tables (R81, R88), and the mask and match of each row (R88). -/

namespace Sys2Proof

/-! ## Fields (00_scope.md R11) -/

/-- `op[15:12]`, the group digit (R81). -/
def opGroup (op : Opcode) : Nibble := op.extractLsb' 12 4

/-- `x = op[11:8]`. -/
def opX (op : Opcode) : Reg := (op.extractLsb' 8 4).toFin

/-- `y = op[7:4]`. -/
def opY (op : Opcode) : Reg := (op.extractLsb' 4 4).toFin

/-- `n = op[3:0]`. -/
def opN (op : Opcode) : Nibble := op.extractLsb' 0 4

/-- `kk = op[7:0]`. -/
def opKk (op : Opcode) : Byte := op.extractLsb' 0 8

/-- `nnn = op[11:0]`. -/
def opNnn (op : Opcode) : Addr12 := op.extractLsb' 0 12

/-! ## The decoder -/

/-- Why bytes are no instruction. -/
inductive Reject where
  /-- The opcode matches no row of R88: it is `UNKNOWN` (R84) and executes as a no-op (R89). Raised by
  `decodeOpcode`; safe, the step of such an opcode is modelled. -/
  | unknownOpcode (op : Opcode)
  /-- Fewer than the two bytes every instruction has (R80). Raised by `decode`; safe, fetch always gives two. -/
  | shortInput
  deriving DecidableEq, Repr

/-- Group 0 compares the whole opcode (R86). -/
def decodeGroup0 (op : Opcode) : Except Reject Instr :=
  if op = 0x00E0#16 then .ok .cls
  else if op = 0x00EE#16 then .ok .ret
  else .error (.unknownOpcode op)

/-- Group 8 is selected by `op[3:0]` (R85). -/
def decodeGroup8 (op : Opcode) : Except Reject Instr :=
  match (opN op).toNat with
  | 0x0 => .ok (.ldReg (opX op) (opY op))
  | 0x1 => .ok (.orReg (opX op) (opY op))
  | 0x2 => .ok (.andReg (opX op) (opY op))
  | 0x3 => .ok (.xorReg (opX op) (opY op))
  | 0x4 => .ok (.addReg (opX op) (opY op))
  | 0x5 => .ok (.subReg (opX op) (opY op))
  | 0x6 => .ok (.shr (opX op) (opY op))
  | 0x7 => .ok (.subnReg (opX op) (opY op))
  | 0xE => .ok (.shl (opX op) (opY op))
  | _ => .error (.unknownOpcode op)

/-- Group E is selected by `op[7:0]` (R85). -/
def decodeGroupE (op : Opcode) : Except Reject Instr :=
  match (opKk op).toNat with
  | 0x9E => .ok (.skp (opX op))
  | 0xA1 => .ok (.sknp (opX op))
  | _ => .error (.unknownOpcode op)

/-- Group F is selected by `op[7:0]` (R85). -/
def decodeGroupF (op : Opcode) : Except Reject Instr :=
  match (opKk op).toNat with
  | 0x07 => .ok (.ldVxDt (opX op))
  | 0x0A => .ok (.ldVxK (opX op))
  | 0x15 => .ok (.ldDtVx (opX op))
  | 0x18 => .ok (.ldStVx (opX op))
  | 0x1E => .ok (.addI (opX op))
  | 0x29 => .ok (.ldF (opX op))
  | 0x33 => .ok (.ldB (opX op))
  | 0x55 => .ok (.ldMemVx (opX op))
  | 0x65 => .ok (.ldVxMem (opX op))
  | _ => .error (.unknownOpcode op)

/-- The group map (R85): every 16-bit opcode to one instruction or to `UNKNOWN` (R84). Groups 5 and 9 need
their fixed low digit 0 (R84, C5). -/
def decodeOpcode (op : Opcode) : Except Reject Instr :=
  match (opGroup op).toNat with
  | 0x0 => decodeGroup0 op
  | 0x1 => .ok (.jp (opNnn op))
  | 0x2 => .ok (.call (opNnn op))
  | 0x3 => .ok (.seImm (opX op) (opKk op))
  | 0x4 => .ok (.sneImm (opX op) (opKk op))
  | 0x5 => if opN op = 0#4 then .ok (.seReg (opX op) (opY op)) else .error (.unknownOpcode op)
  | 0x6 => .ok (.ldImm (opX op) (opKk op))
  | 0x7 => .ok (.addImm (opX op) (opKk op))
  | 0x8 => decodeGroup8 op
  | 0x9 => if opN op = 0#4 then .ok (.sneReg (opX op) (opY op)) else .error (.unknownOpcode op)
  | 0xA => .ok (.ldI (opNnn op))
  | 0xB => .ok (.jpV0 (opNnn op))
  | 0xC => .ok (.rnd (opX op) (opKk op))
  | 0xD => .ok (.drw (opX op) (opY op) (opN op))
  | 0xE => decodeGroupE op
  | 0xF => decodeGroupF op
  | _ => .error (.unknownOpcode op)

/-- An opcode from its two bytes, the byte at the lower address most significant (20_memory.md R64). -/
def opcodeOfBytes (hi lo : Byte) : Opcode := hi ++ lo

/-- The most significant byte of an opcode, the one at the lower address (R64). -/
def opcodeHi (op : Opcode) : Byte := op.extractLsb' 8 8

/-- The least significant byte of an opcode, the one at the higher address (R64). -/
def opcodeLo (op : Opcode) : Byte := op.extractLsb' 0 8

/-- The instruction at the head of a byte sequence and the bytes after it; "a decoder always consumes exactly
two bytes" (R80). -/
def decode : List Byte → Except Reject (Instr × List Byte)
  | hi :: lo :: rest => (decodeOpcode (opcodeOfBytes hi lo)).map fun i => (i, rest)
  | _ => .error .shortInput

/-- The instruction the decoder reads from the table word `w` of `nbits` bits. A row of the table is one 16-bit
word, bit 0 its least significant bit (R8), stored most significant byte first (R64). Bits above `nbits` are 0. -/
def decodeTableWord (nbits w : Nat) : Option Instr :=
  let op : Opcode := BitVec.ofNat 16 (w % 2 ^ nbits)
  match decode [opcodeHi op, opcodeLo op] with
  | .ok (i, _) => some i
  | .error _ => none

/-! ## The encoder (R81) -/

/-- A register number as its 4-bit field. -/
def regField (r : Reg) : BitVec 4 := BitVec.ofFin r

/-- Format `NNN`: group digit and address. -/
def formatNNN (g : BitVec 4) (nnn : Addr12) : Opcode := g ++ nnn

/-- Format `XKK`: group digit, register, immediate. -/
def formatXKK (g : BitVec 4) (x : Reg) (kk : Byte) : Opcode := g ++ regField x ++ kk

/-- Formats `XY` and `XYN`: group digit, two registers, a digit. -/
def formatXYN (g : BitVec 4) (x y : Reg) (n : Nibble) : Opcode := g ++ regField x ++ regField y ++ n

/-- The opcode of an instruction (R81, R88). -/
def encode : Instr → Opcode
  | .cls => 0x00E0#16
  | .ret => 0x00EE#16
  | .jp nnn => formatNNN 0x1 nnn
  | .call nnn => formatNNN 0x2 nnn
  | .seImm x kk => formatXKK 0x3 x kk
  | .sneImm x kk => formatXKK 0x4 x kk
  | .seReg x y => formatXYN 0x5 x y 0x0
  | .ldImm x kk => formatXKK 0x6 x kk
  | .addImm x kk => formatXKK 0x7 x kk
  | .ldReg x y => formatXYN 0x8 x y 0x0
  | .orReg x y => formatXYN 0x8 x y 0x1
  | .andReg x y => formatXYN 0x8 x y 0x2
  | .xorReg x y => formatXYN 0x8 x y 0x3
  | .addReg x y => formatXYN 0x8 x y 0x4
  | .subReg x y => formatXYN 0x8 x y 0x5
  | .shr x y => formatXYN 0x8 x y 0x6
  | .subnReg x y => formatXYN 0x8 x y 0x7
  | .shl x y => formatXYN 0x8 x y 0xE
  | .sneReg x y => formatXYN 0x9 x y 0x0
  | .ldI nnn => formatNNN 0xA nnn
  | .jpV0 nnn => formatNNN 0xB nnn
  | .rnd x kk => formatXKK 0xC x kk
  | .drw x y n => formatXYN 0xD x y n
  | .skp x => formatXKK 0xE x 0x9E
  | .sknp x => formatXKK 0xE x 0xA1
  | .ldVxDt x => formatXKK 0xF x 0x07
  | .ldVxK x => formatXKK 0xF x 0x0A
  | .ldDtVx x => formatXKK 0xF x 0x15
  | .ldStVx x => formatXKK 0xF x 0x18
  | .addI x => formatXKK 0xF x 0x1E
  | .ldF x => formatXKK 0xF x 0x29
  | .ldB x => formatXKK 0xF x 0x33
  | .ldMemVx x => formatXKK 0xF x 0x55
  | .ldVxMem x => formatXKK 0xF x 0x65

/-- The bytes of an instruction in memory order: "an assembled program is the big-endian byte sequence of its
opcodes" (R94). -/
def encodeBytes (i : Instr) : List Byte := [opcodeHi (encode i), opcodeLo (encode i)]

/-! ## The rows of R88 -/

/-- A row of the opcode list: an opcode matches it when `op &&& mask = pattern` (R84). -/
structure Row where
  mask : Opcode
  pattern : Opcode
  deriving DecidableEq, Repr

/-- The row of R88 an instruction belongs to. -/
def rowOf : Instr → Row
  | .cls => ⟨0xFFFF, 0x00E0⟩
  | .ret => ⟨0xFFFF, 0x00EE⟩
  | .jp _ => ⟨0xF000, 0x1000⟩
  | .call _ => ⟨0xF000, 0x2000⟩
  | .seImm _ _ => ⟨0xF000, 0x3000⟩
  | .sneImm _ _ => ⟨0xF000, 0x4000⟩
  | .seReg _ _ => ⟨0xF00F, 0x5000⟩
  | .ldImm _ _ => ⟨0xF000, 0x6000⟩
  | .addImm _ _ => ⟨0xF000, 0x7000⟩
  | .ldReg _ _ => ⟨0xF00F, 0x8000⟩
  | .orReg _ _ => ⟨0xF00F, 0x8001⟩
  | .andReg _ _ => ⟨0xF00F, 0x8002⟩
  | .xorReg _ _ => ⟨0xF00F, 0x8003⟩
  | .addReg _ _ => ⟨0xF00F, 0x8004⟩
  | .subReg _ _ => ⟨0xF00F, 0x8005⟩
  | .shr _ _ => ⟨0xF00F, 0x8006⟩
  | .subnReg _ _ => ⟨0xF00F, 0x8007⟩
  | .shl _ _ => ⟨0xF00F, 0x800E⟩
  | .sneReg _ _ => ⟨0xF00F, 0x9000⟩
  | .ldI _ => ⟨0xF000, 0xA000⟩
  | .jpV0 _ => ⟨0xF000, 0xB000⟩
  | .rnd _ _ => ⟨0xF000, 0xC000⟩
  | .drw _ _ _ => ⟨0xF000, 0xD000⟩
  | .skp _ => ⟨0xF0FF, 0xE09E⟩
  | .sknp _ => ⟨0xF0FF, 0xE0A1⟩
  | .ldVxDt _ => ⟨0xF0FF, 0xF007⟩
  | .ldVxK _ => ⟨0xF0FF, 0xF00A⟩
  | .ldDtVx _ => ⟨0xF0FF, 0xF015⟩
  | .ldStVx _ => ⟨0xF0FF, 0xF018⟩
  | .addI _ => ⟨0xF0FF, 0xF01E⟩
  | .ldF _ => ⟨0xF0FF, 0xF029⟩
  | .ldB _ => ⟨0xF0FF, 0xF033⟩
  | .ldMemVx _ => ⟨0xF0FF, 0xF055⟩
  | .ldVxMem _ => ⟨0xF0FF, 0xF065⟩

/-- The opcode matches the row. -/
def Row.covers (r : Row) (op : Opcode) : Bool := op &&& r.mask == r.pattern

end Sys2Proof
end

