-- ==== Sys2Proof/Machine/State.lean ====
section
/-! DEFINITION. All the state the spec gives the machine (10_state.md R44), its external inputs (R40, R41), the
ways a step can end, and the state after reset (70_reset_and_hazards.md R250). Plain data throughout. -/

namespace Sys2Proof.Machine

/-- Memory: the bytes that differ from their reset contents, as (address, byte) pairs, addresses rising. What an
unlisted address holds is `Memory.resetByte` (log 6). -/
abbrev Memory := List Host.Cell

/-- The framebuffer: 32 rows, top row first, bit `px` of a row being column `px` (10_state.md R38, log 7). -/
abbrev Framebuffer := Vector (BitVec 64) 32

/-- The values of `FAULT_CODE` (10_state.md R35, 60_exceptions.md R221); codes 6 and 7 are unused (log 16). -/
inductive FaultCode where
  /-- 0 `NONE`: no fault -/
  | none
  /-- 1 `STACK_OVERFLOW`: `2nnn` with `SP = 16` -/
  | stackOverflow
  /-- 2 `STACK_UNDERFLOW`: `00EE` with `SP = 0` -/
  | stackUnderflow
  /-- 3 `FETCH_OUT_OF_RANGE`: a fetch at `pc > 0xFFE` -/
  | fetchOutOfRange
  /-- 4 `DATA_OUT_OF_RANGE`: an operand byte address above 0xFFF -/
  | dataOutOfRange
  /-- 5 `KEY_INDEX_OUT_OF_RANGE`: a key number above 0xF -/
  | keyIndexOutOfRange
  deriving DecidableEq, Repr

/-- The values of the output `LOAD_STATUS` (10_state.md R55, log 16). -/
inductive LoadStatus where
  | none
  | ok
  | tooLarge
  deriving DecidableEq, Repr

/-- Reasons for a step of the MODEL to end in a fault: there are none. What the spec calls a fault is a next
state with the fault record written (60_exceptions.md R224), after which the machine still steps (40_cycle.md
R110) and still takes `load` and `reset`; log 4. Raised by nobody; safe. -/
inductive Fault where
  deriving DecidableEq, Repr

/-- Reasons for a refusal. -/
inductive Refusal where
  /-- The instruction has no meaning yet. Raised by a refused arm of `exec` only, of which there is none; safe. -/
  | notModelled (mnemonic : String)
  deriving DecidableEq, Repr

/-- The machine. -/
structure State where
  /-- `V0`..`VF`, one array, element 15 being `VF` (R20, R21) -/
  v : Vector Byte 16
  /-- the program counter (R23) -/
  pc : Word
  /-- the index register `I` (R27) -/
  i : Word
  /-- `SP`, 0 to 16 inclusive (R29, log 9) -/
  sp : Fin 17
  /-- `STACK[0]`..`STACK[15]` (R29) -/
  stack : Vector Word 16
  /-- the delay timer `DT` (R31) -/
  dt : Byte
  /-- the sound timer `ST` (R32) -/
  st : Byte
  /-- memory (R36) -/
  mem : Memory
  /-- the framebuffer `FB` (R38) -/
  fb : Framebuffer
  /-- `FAULTED` (R35) -/
  faulted : Bool
  /-- `FAULT_CODE` (R35) -/
  faultCode : FaultCode
  /-- `FAULT_PC` (R35) -/
  faultPc : Word
  /-- `FAULT_OPCODE` (R35) -/
  faultOpcode : Opcode
  /-- `FAULT_INFO` (R35) -/
  faultInfo : Word
  /-- the output `FB_UPDATED` (R54) -/
  fbUpdated : Bool
  /-- the output `LOAD_STATUS` (R55) -/
  loadStatus : LoadStatus
  /-- INPUT, owned by the host: `KEYS`, bit `k` = 1 when key `k` is pressed (R40, log 1) -/
  keys : BitVec 16
  /-- INPUT, supplied by the host: the byte presented as `RAND` to the coming step, if the host has presented
  one (R41, log 2) -/
  randIn : Option Byte
  /-- THE MODEL'S OWN: how many random bytes have been consumed, the argument of the free value (log 2) -/
  randDraws : Nat
  deriving DecidableEq, Repr

/-- How one instruction or one step ends. -/
abbrev Result := Host.Outcome State Fault Refusal

/-- The state after construction or `reset` (R44, 70_reset_and_hazards.md R250): "font loaded, PC set to
`0x200`, all else zeroed". Memory lists nothing, so it is the reset contents. The three input fields have no
reset value in the spec (logs 1, 2). -/
def State.reset : State where
  v := Vector.replicate 16 0
  pc := 0x200
  i := 0
  sp := 0
  stack := Vector.replicate 16 0
  dt := 0
  st := 0
  mem := []
  fb := Vector.replicate 32 0
  faulted := false
  faultCode := .none
  faultPc := 0
  faultOpcode := 0
  faultInfo := 0
  fbUpdated := false
  loadStatus := .none
  keys := 0
  randIn := none
  randDraws := 0

end Sys2Proof.Machine
end

