-- ==== Sys2Proof/Machine/Memory.lean ====
section
/-! DEFINITION. The one address space (20_memory.md R60): reading and writing a byte, runs of bytes at rising
addresses (R68), and the canonical form of the list that holds it (log 6). The range checks of R62 and R63 are
made by the operations that use these (Machine/Ops.lean). -/

namespace Sys2Proof.Machine

/-- What an address holds after reset: the font at 0x050..0x09F and 0x00 elsewhere (10_state.md R36, R37). -/
def Memory.resetByte (a : Nat) : Byte :=
  if Config.fontBase ≤ a ∧ a < Config.fontBase + Config.fontSize then Config.fontByte (a - Config.fontBase)
  else 0

/-- `MEM[a]` (20_memory.md R62, R69). -/
def Memory.read : Memory → Nat → Byte
  | [], a => Memory.resetByte a
  | cell :: rest, a => if cell.1 = a then cell.2 else Memory.read rest a

/-- The list without its entries at `a`. -/
def Memory.unlist (m : Memory) (a : Nat) : Memory := m.filter fun cell => cell.1 != a

/-- The list with an entry for `a`, put before the first higher address. -/
def Memory.enlist (a : Nat) (b : Byte) : Memory → Memory
  | [] => [(a, b)]
  | cell :: rest => if a < cell.1 then (a, b) :: cell :: rest else cell :: Memory.enlist a b rest

/-- `MEM[a] <- b` (20_memory.md R63). Writing the reset contents unlists the address. -/
def Memory.write (m : Memory) (a : Nat) (b : Byte) : Memory :=
  if b = Memory.resetByte a then m.unlist a else Memory.enlist a b (m.unlist a)

/-- Bytes written at consecutive increasing addresses from `a` (R68). -/
def Memory.writeBytes (m : Memory) (a : Nat) : List Byte → Memory
  | [] => m
  | b :: bs => Memory.writeBytes (m.write a b) (a + 1) bs

/-- `count` bytes read at consecutive increasing addresses from `a` (R68). -/
def Memory.readBytes (m : Memory) (a : Nat) : Nat → List Byte
  | 0 => []
  | count + 1 => m.read a :: Memory.readBytes m (a + 1) count

/-- The canonical form: addresses strictly rising and inside the address space, no entry equal to what the
address would read as unlisted. -/
abbrev Memory.wf (m : Memory) : Prop :=
  m.Pairwise (fun c d => c.1 < d.1) ∧ ∀ c ∈ m, c.1 < Config.memSize ∧ c.2 ≠ Memory.resetByte c.1

end Sys2Proof.Machine
end

