-- ==== Sys2Proof/Machine/Ops.lean ====
section
/-! DEFINITION. The named operations every meaning is written with: registers, the program counter, the call
stack, pixels, the fetch, the end of a step, and raising a fault. -/

namespace Sys2Proof.Machine

/-! ## General registers (10_state.md R20) -/

/-- `V[x]`. -/
def State.getV (s : State) (x : Reg) : Byte := s.v[x.val]

/-- `V[x] <- b`. -/
def State.setV (s : State) (x : Reg) (b : Byte) : State := { s with v := s.v.set x.val b x.isLt }

/-- `V[0]..V[count-1] <- bytes` for a list of at most 16 bytes; the other registers are kept (R172). -/
def State.setVs (s : State) (bytes : List Byte) : State :=
  { s with v := Vector.ofFn fun j : Fin 16 => bytes.getD j.val (s.getV j) }

/-- `V[0]..V[x]`, lowest first (R171). -/
def State.getVs (s : State) (x : Reg) : List Byte := s.v.toList.take (x.val + 1)

/-! ## Program counter (10_state.md R23) -/

/-- `pc <- (pc + 2) mod 2^16` before execution (40_cycle.md R104). -/
def State.advancePc (s : State) : State := { s with pc := s.pc + 2 }

/-- A jump: `pc <- t`. -/
def State.jump (s : State) (t : Word) : State := { s with pc := t }

/-- A skip advances the already advanced `pc` by exactly 2 more (41_control_flow.md R128). -/
def State.skipIf (s : State) (b : Bool) : State := if b then { s with pc := s.pc + 2 } else s

/-- Put `pc` back on the instruction being executed: `pc <- (pc - 2) mod 2^16` (45_keypad_timer.md R203). -/
def State.rewindPc (s : State) : State := { s with pc := s.pc - 2 }

/-! ## Call stack (10_state.md R29, R30) -/

/-- `STACK[SP] <- pc; SP <- SP + 1`; used when `SP < 16`. -/
def State.pushPc (s : State) : State :=
  { s with stack := s.stack.setIfInBounds s.sp.val s.pc, sp := s.sp + 1 }

/-- `SP <- SP - 1; pc <- STACK[SP]`; used when `SP > 0`. The popped entry keeps its value. -/
def State.popPc (s : State) : State :=
  { s with sp := s.sp - 1, pc := s.stack[Fin.ofNat 16 (s.sp.val - 1)] }

/-! ## Framebuffer (10_state.md R38) -/

/-- `FB[px, py]`; a position off the 64 x 32 grid is no pixel and reads off. -/
def Framebuffer.pixel (fb : Framebuffer) (px py : Nat) : Bool := (fb[py]?.getD 0).getLsbD px

/-- `FB[px, py] <- FB[px, py] XOR 1`, for a position on the grid. -/
def Framebuffer.toggle (fb : Framebuffer) (px py : Nat) : Framebuffer :=
  fb.setIfInBounds py (fb[py]?.getD 0 ^^^ BitVec.twoPow 64 px)

/-- Every pixel off (R180). -/
def Framebuffer.clear : Framebuffer := Vector.replicate 32 0

/-! ## Faults (60_exceptions.md R221, R224, R225)

There is no trap entry and no return from one (R227, R228): a fault writes the fault record and stops the core,
and the only way out is `State.hostReset`. -/

/-- The number of a fault code (R221). -/
def faultNumber : FaultCode → BitVec 3
  | .none => 0
  | .stackOverflow => 1
  | .stackUnderflow => 2
  | .fetchOutOfRange => 3
  | .dataOutOfRange => 4
  | .keyIndexOutOfRange => 5

/-- Write the fault record (R224). -/
def State.recordFault (s : State) (code : FaultCode) (p : Word) (op : Opcode) (info : Word) : State :=
  { s with
    faulted := true, faultCode := code, faultPc := p, faultOpcode := op, faultInfo := info,
    fbUpdated := false }

/-- `raise Fault(code, info)` by the instruction `i`, executing with `pc` at its address plus 2 and before it has
written anything: the `pc` advance is taken back and the fault record written (R224, R225). `FAULT_PC` is the
address of `i` and `FAULT_OPCODE` its opcode (log 5). -/
def State.raiseFault (s : State) (i : Instr) (code : FaultCode) (info : Word) : State :=
  s.rewindPc.recordFault code (s.pc - 2) (encode i) info

/-- The fetch fault: no opcode, `FAULT_INFO = pc` (20_memory.md R66, 60_exceptions.md R221). -/
def State.fetchFault (s : State) : State := s.recordFault .fetchOutOfRange s.pc 0 s.pc

/-- The way back from the faulted state, the `reset` transaction: every element of core state takes its reset
value (R228, 70_reset_and_hazards.md R250, R251). The inputs are the host's and stay (log 12). -/
def State.hostReset (s : State) : State :=
  { State.reset with keys := s.keys, randIn := s.randIn, randDraws := s.randDraws }

/-- The first address of the `count` bytes from `base` that is above 0xFFF (20_memory.md R62, R63, R67). -/
def firstBadAddress (base count : Nat) : Option Nat :=
  ((List.range count).map fun k => base + k).find? fun a => decide (a > 0xFFF)

/-- The instruction `i` accesses `count` bytes from `I`: every address is checked before anything changes, and
the lowest one above 0xFFF is reported; otherwise the access gives `done` (R67, 60_exceptions.md R225). -/
def State.withDataRange (s : State) (i : Instr) (count : Nat) (done : State) : State :=
  match firstBadAddress s.i.toNat count with
  | some a => s.raiseFault i .dataOutOfRange (BitVec.ofNat 16 a)
  | none => done

/-! ## The step's frame (40_cycle.md R100) -/

/-- `op = MEM[pc] ++ MEM[pc + 1]` (R101, 20_memory.md R64). -/
def State.opcodeAtPc (s : State) : Opcode :=
  opcodeOfBytes (s.mem.read s.pc.toNat) (s.mem.read (s.pc.toNat + 1))

/-- Fetch: the opcode at `pc`, or nothing when `pc > 0xFFE` (R101, 20_memory.md R66). -/
def State.fetch (s : State) : Option Opcode :=
  if s.pc.toNat > 0xFFE then none else some s.opcodeAtPc

/-- One timer's tick: down by 1 unless 0 (R108). -/
def tick (t : Byte) : Byte := if t = 0 then 0 else t - 1

/-- The instructions whose step sets `FB_UPDATED` (10_state.md R54). -/
def drawsScreen : Instr → Bool
  | .cls => true
  | .drw _ _ _ => true
  | _ => false

/-- The instructions that consume a random byte: "exactly one random byte is consumed per `Cxkk` step and none
by other steps" (42_alu.md R156). -/
def consumesRand : Instr → Bool
  | .rnd _ _ => true
  | _ => false

/-- The end of a non-faulting step of an instruction, or of an unknown opcode (`none`): both timers tick (R108),
`FB_UPDATED` is set or cleared (10_state.md R54). After a `Cxkk` the byte presented as `RAND` is used up, and
until the host presents another one the next is a fresh free value (log 2). -/
def State.finishStep (s : State) (i : Option Instr) : State :=
  { s with
    dt := tick s.dt
    st := tick s.st
    fbUpdated := i.any drawsScreen
    randIn := if i.any consumesRand then none else s.randIn
    randDraws := if i.any consumesRand then s.randDraws + 1 else s.randDraws }

/-- A step in the faulted state has no effect but `FB_UPDATED <- 0` (R110). -/
def State.idleStep (s : State) : State := { s with fbUpdated := false }

/-! ## Placing an opcode for the next step (log 8) -/

/-- A state whose next step fetches: a fault record is cleared as reset clears it, and a `pc` from which no
fetch is possible is put on the entry point 0x200. Otherwise the state itself. -/
def State.readyToFetch (s : State) : State :=
  let t := if s.faulted then
      { s with faulted := false, faultCode := .none, faultPc := 0, faultOpcode := 0, faultInfo := 0 }
    else s
  if t.pc.toNat > 0xFFE then { t with pc := 0x200 } else t

/-- The opcode stored at `pc`, most significant byte first (20_memory.md R64). -/
def State.placeOpcode (s : State) (op : Opcode) : State :=
  { s with mem := s.mem.writeBytes s.pc.toNat [opcodeHi op, opcodeLo op] }

end Sys2Proof.Machine
end

