-- ==== Sys2Proof/Machine/Flags.lean ====
section
/-! DEFINITION. The flag values of 10_state.md R33 and the flag-last rule of 42_alu.md R149. -/

namespace Sys2Proof.Machine

/-- A condition as a flag byte, 1 or 0. -/
def flagByte (b : Bool) : Byte := if b then 1 else 0

/-- Carry: 1 if the unwrapped sum exceeds 255 (R146). -/
def carryFlag (a b : Byte) : Byte := flagByte (decide (a.toNat + b.toNat > 255))

/-- 1 if the minuend is strictly greater than the subtrahend (R147, R148, C9). -/
def greaterFlag (minuend subtrahend : Byte) : Byte := flagByte (decide (minuend.toNat > subtrahend.toNat))

/-- The bit a right shift by one shifts out, bit 0 (R150). -/
def shrFlag (a : Byte) : Byte := flagByte (a.getLsbD 0)

/-- The bit a left shift by one shifts out, bit 7 (R152). -/
def shlFlag (a : Byte) : Byte := flagByte (a.getLsbD 7)

/-- The result is written to `V[x]`, then the flag to `VF`: "the flag write always happens last" (R149). When
`x = 0xF` the flag overwrites the result. -/
def State.setVThenFlag (s : State) (x : Reg) (result flag : Byte) : State :=
  (s.setV x result).setV Reg.vf flag

end Sys2Proof.Machine
end

