-- ==== Sys2Proof/Machine/Operands.lean ====
section
/-! DEFINITION. The operand forms of 30_encoding.md R82 as values: zero-extended addresses and registers, the
address operand of the memory instructions, the key number, the random byte and the sprite's anchor. -/

namespace Sys2Proof.Machine

/-- `zext_16(nnn)` (R82). -/
def addressOperand (nnn : Addr12) : Word := nnn.setWidth 16

/-- `zext_16(V[x])` (00_scope.md R9). -/
def State.wordV (s : State) (x : Reg) : Word := (s.getV x).setWidth 16

/-- The address `I + offset`, computed without wraparound (20_memory.md R67). -/
def State.dataAddress (s : State) (offset : Nat) : Nat := s.i.toNat + offset

/-- `RAND`, the 8-bit random input of the step: the byte the host has presented, or a free value
(10_state.md R41, log 2). -/
def State.rand (s : State) : Byte := s.randIn.getD (Config.freeRand s.randDraws)

/-- `KEYS[k]` for a key number 0..15 (10_state.md R40). -/
def State.keyPressed (s : State) (k : Nat) : Bool := s.keys.getLsbD k

/-- "The FIRST pressed key found when scanning 0..15 in ascending order" (45_keypad_timer.md R203). -/
def State.firstPressed (s : State) : Option Nat := (List.range Config.numKeys).find? s.keyPressed

/-- The anchor column `V[x] mod 64` (44_display.md R183). -/
def State.anchorX (s : State) (x : Reg) : Nat := (s.getV x).toNat % Config.fbWidth

/-- The anchor row `V[y] mod 32` (44_display.md R183). -/
def State.anchorY (s : State) (y : Reg) : Nat := (s.getV y).toNat % Config.fbHeight

/-- The sprite's rows: `n` bytes from `I` (44_display.md R184). -/
def State.spriteRows (s : State) (n : Nibble) : List Byte := s.mem.readBytes (s.dataAddress 0) n.toNat

end Sys2Proof.Machine
end

