-- ==== Sys2Proof/Machine/Alu.lean ====
section
/-! DEFINITION. The load, arithmetic and logic instructions (42_alu.md). Register arithmetic is unsigned modulo
2^8, index arithmetic modulo 2^16 (R158). -/

namespace Sys2Proof.Machine

/-- `6xkk` LD Vx, kk (R140). -/
def execLdImm (x : Reg) (kk : Byte) (s : State) : Result := .next (s.setV x kk)

/-- `7xkk` ADD Vx, kk (R141): no flag. -/
def execAddImm (x : Reg) (kk : Byte) (s : State) : Result := .next (s.setV x (s.getV x + kk))

/-- `8xy0` LD Vx, Vy (R142). -/
def execLdReg (x y : Reg) (s : State) : Result := .next (s.setV x (s.getV y))

/-- `8xy1` OR Vx, Vy (R143): no flag. -/
def execOrReg (x y : Reg) (s : State) : Result := .next (s.setV x (s.getV x ||| s.getV y))

/-- `8xy2` AND Vx, Vy (R144): no flag. -/
def execAndReg (x y : Reg) (s : State) : Result := .next (s.setV x (s.getV x &&& s.getV y))

/-- `8xy3` XOR Vx, Vy (R145): no flag. -/
def execXorReg (x y : Reg) (s : State) : Result := .next (s.setV x (s.getV x ^^^ s.getV y))

/-- `8xy4` ADD Vx, Vy (R146). -/
def execAddReg (x y : Reg) (s : State) : Result :=
  .next (s.setVThenFlag x (s.getV x + s.getV y) (carryFlag (s.getV x) (s.getV y)))

/-- `8xy5` SUB Vx, Vy (R147). -/
def execSubReg (x y : Reg) (s : State) : Result :=
  .next (s.setVThenFlag x (s.getV x - s.getV y) (greaterFlag (s.getV x) (s.getV y)))

/-- `8xy6` SHR Vx (R150): `y` is ignored (30_encoding.md R83). -/
def execShr (x _y : Reg) (s : State) : Result :=
  .next (s.setVThenFlag x (s.getV x >>> 1) (shrFlag (s.getV x)))

/-- `8xy7` SUBN Vx, Vy (R148). -/
def execSubnReg (x y : Reg) (s : State) : Result :=
  .next (s.setVThenFlag x (s.getV y - s.getV x) (greaterFlag (s.getV y) (s.getV x)))

/-- `8xyE` SHL Vx (R152): `y` is ignored (30_encoding.md R83). -/
def execShl (x _y : Reg) (s : State) : Result :=
  .next (s.setVThenFlag x (s.getV x <<< 1) (shlFlag (s.getV x)))

/-- `Annn` LD I, nnn (R155). -/
def execLdI (nnn : Addr12) (s : State) : Result := .next { s with i := addressOperand nnn }

/-- `Cxkk` RND Vx, kk (R156). -/
def execRnd (x : Reg) (kk : Byte) (s : State) : Result := .next (s.setV x (s.rand &&& kk))

/-- `Fx1E` ADD I, Vx (R157): no flag. -/
def execAddI (x : Reg) (s : State) : Result := .next { s with i := s.i + s.wordV x }

end Sys2Proof.Machine
end

