-- ==== Sys2Proof/Machine/ControlFlow.lean ====
section
/-! DEFINITION. The control-flow instructions (41_control_flow.md). Every meaning of this package is the execute
line of 40_cycle.md R100: `pc` already holds the address of the instruction plus 2 (R104). -/

namespace Sys2Proof.Machine

/-- `00EE` RET (R120). -/
def execRet (s : State) : Result :=
  .next (if s.sp.val = 0 then s.raiseFault .ret .stackUnderflow 0 else s.popPc)

/-- `1nnn` JP nnn (R121). -/
def execJp (nnn : Addr12) (s : State) : Result := .next (s.jump (addressOperand nnn))

/-- `2nnn` CALL nnn (R122): the pushed value is the advanced `pc`. -/
def execCall (nnn : Addr12) (s : State) : Result :=
  .next (if s.sp.val = Config.stackDepth then s.raiseFault (.call nnn) .stackOverflow (addressOperand nnn)
    else s.pushPc.jump (addressOperand nnn))

/-- `3xkk` SE Vx, kk (R123). -/
def execSeImm (x : Reg) (kk : Byte) (s : State) : Result := .next (s.skipIf (s.getV x == kk))

/-- `4xkk` SNE Vx, kk (R124). -/
def execSneImm (x : Reg) (kk : Byte) (s : State) : Result := .next (s.skipIf (s.getV x != kk))

/-- `5xy0` SE Vx, Vy (R125). -/
def execSeReg (x y : Reg) (s : State) : Result := .next (s.skipIf (s.getV x == s.getV y))

/-- `9xy0` SNE Vx, Vy (R126). -/
def execSneReg (x y : Reg) (s : State) : Result := .next (s.skipIf (s.getV x != s.getV y))

/-- `Bnnn` JP V0, nnn (R127): the sum is not masked to 12 bits. -/
def execJpV0 (nnn : Addr12) (s : State) : Result := .next (s.jump (addressOperand nnn + s.wordV Reg.v0))

end Sys2Proof.Machine
end

