-- ==== Sys2Proof/Machine/Display.lean ====
section
/-! DEFINITION. The display instructions and the sprite rasterizer (44_display.md). -/

namespace Sys2Proof.Machine

/-- A framebuffer being drawn on and the collision seen so far. -/
abbrev Drawing := Framebuffer × Bool

/-- One sprite bit at `(px, py)`: a set bit on a visible pixel collides if the pixel was on, and XORs it; a set
bit off the grid is clipped, a clear bit does nothing (R187, R188). -/
def plotBit (bit : Bool) (px py : Nat) (d : Drawing) : Drawing :=
  if bit ∧ px < Config.fbWidth ∧ py < Config.fbHeight then (d.1.toggle px py, d.2 || d.1.pixel px py) else d

/-- One sprite row at row `py`, bit 7 at column `x0` (R184). -/
def drawRow (row : Byte) (x0 py : Nat) (d : Drawing) : Drawing :=
  (List.range 8).foldl (fun acc c => plotBit (row.getLsbD (7 - c)) (x0 + c) py acc) d

/-- The sprite's rows from row `y0` down (R182). -/
def drawRows : List Byte → Nat → Nat → Drawing → Drawing
  | [], _, _, d => d
  | row :: rest, x0, y0, d => drawRows rest x0 (y0 + 1) (drawRow row x0 y0 d)

/-- `00E0` CLS (R180). -/
def execCls (s : State) : Result := .next { s with fb := Framebuffer.clear }

/-- `Dxyn` DRW Vx, Vy, n (R182): the anchor is read before `VF` is written (R183), the collision starts at 0
(R185), and with `n = 0` nothing is read, checked or drawn (R186). -/
def execDrw (x y : Reg) (n : Nibble) (s : State) : Result :=
  let d := drawRows (s.spriteRows n) (s.anchorX x) (s.anchorY y) (s.fb, false)
  .next (s.withDataRange (.drw x y n) n.toNat ({ s with fb := d.1 }.setV Reg.vf (flagByte d.2)))

end Sys2Proof.Machine
end

