-- ==== Sys2Proof/Machine/KeypadTimer.lean ====
section
/-! DEFINITION. The keypad and timer instructions (45_keypad_timer.md). -/

namespace Sys2Proof.Machine

/-- `Ex9E` SKP Vx (R200); a key number above 0xF faults (R202). -/
def execSkp (x : Reg) (s : State) : Result :=
  .next (if (s.getV x).toNat > 0xF then s.raiseFault (.skp x) .keyIndexOutOfRange (s.wordV x)
    else s.skipIf (s.keyPressed (s.getV x).toNat))

/-- `ExA1` SKNP Vx (R201); a key number above 0xF faults (R202). -/
def execSknp (x : Reg) (s : State) : Result :=
  .next (if (s.getV x).toNat > 0xF then s.raiseFault (.sknp x) .keyIndexOutOfRange (s.wordV x)
    else s.skipIf (!s.keyPressed (s.getV x).toNat))

/-- `Fx0A` LD Vx, K (R203): with no key pressed the instruction is executed again on the next step. -/
def execLdVxK (x : Reg) (s : State) : Result :=
  .next (match s.firstPressed with
    | none => s.rewindPc
    | some k => s.setV x (BitVec.ofNat 8 k))

/-- `Fx07` LD Vx, DT (R205). -/
def execLdVxDt (x : Reg) (s : State) : Result := .next (s.setV x s.dt)

/-- `Fx15` LD DT, Vx (R206). -/
def execLdDtVx (x : Reg) (s : State) : Result := .next { s with dt := s.getV x }

/-- `Fx18` LD ST, Vx (R207). -/
def execLdStVx (x : Reg) (s : State) : Result := .next { s with st := s.getV x }

end Sys2Proof.Machine
end

