-- ==== Sys2Proof/Machine/MemoryBlock.lean ====
section
/-! DEFINITION. The memory-block, BCD and font instructions (43_memory_block.md). `I` is unchanged by the three
that access memory (10_state.md R27). -/

namespace Sys2Proof.Machine

/-- The decimal digits of a byte, most significant first (R170, 20_memory.md R65). -/
def bcdDigits (v : Byte) : List Byte :=
  [BitVec.ofNat 8 (v.toNat / 100), BitVec.ofNat 8 (v.toNat / 10 % 10), BitVec.ofNat 8 (v.toNat % 10)]

/-- Store bytes at consecutive increasing addresses from `I` (20_memory.md R68). -/
def State.storeAtI (s : State) (bytes : List Byte) : State :=
  { s with mem := s.mem.writeBytes (s.dataAddress 0) bytes }

/-- `Fx33` LD B, Vx (R170). -/
def execLdB (x : Reg) (s : State) : Result :=
  .next (s.withDataRange (.ldB x) 3 (s.storeAtI (bcdDigits (s.getV x))))

/-- `Fx55` LD [I], Vx (R171). -/
def execLdMemVx (x : Reg) (s : State) : Result :=
  .next (s.withDataRange (.ldMemVx x) (x.val + 1) (s.storeAtI (s.getVs x)))

/-- `Fx65` LD Vx, [I] (R172). -/
def execLdVxMem (x : Reg) (s : State) : Result :=
  .next (s.withDataRange (.ldVxMem x) (x.val + 1) (s.setVs (s.mem.readBytes (s.dataAddress 0) (x.val + 1))))

/-- `Fx29` LD F, Vx (R173): `I <- 0x050 + 5 * V[x]`, not masked. -/
def execLdF (x : Reg) (s : State) : Result :=
  .next { s with i := BitVec.ofNat 16 (Config.fontBase + Config.fontGlyphBytes * (s.getV x).toNat) }

end Sys2Proof.Machine
end

