-- ==== Sys2Proof/Machine/Step.lean ====
section
/-! DEFINITION. One step of the machine (40_cycle.md R100) and placing an instruction for the next one. -/

namespace Sys2Proof.Machine

/-- The rest of a step once the opcode is fetched: decode, advance `pc`, execute, and, unless the instruction
faulted, the end of the step (R100, R103 to R108). An unknown opcode executes as a no-op (R106). -/
def runOpcode (op : Opcode) (s : State) : Host.Outcome State Fault Refusal :=
  match decodeOpcode op with
  | .error _ => .next (s.advancePc.finishStep none)
  | .ok i =>
    match exec i s.advancePc with
    | .next t => .next (if t.faulted then t else t.finishStep (some i))
    | .fault r => .fault r
    | .refused r => .refused r

/-- `step(KEYS, RAND)` with the inputs the state holds (R100, R102). -/
def step (s : State) : Host.Outcome State Fault Refusal :=
  if s.faulted then .next s.idleStep
  else
    match s.fetch with
    | none => .next s.fetchFault
    | some op => runOpcode op s

/-- The opcode of a table row (bits above `nbits` zero) stored where the next step fetches; in a state whose next
step would not fetch, the fault record is cleared and `pc` put on the entry point (log 8). -/
def State.withFetchWord (s : State) (nbits w : Nat) : State :=
  s.readyToFetch.placeOpcode (BitVec.ofNat 16 (w % 2 ^ nbits))

end Sys2Proof.Machine
end

