-- ==== Sys2Proof/Machine/Transaction.lean ====
section
/-! DEFINITION. The three host transactions (10_state.md R50): `reset`, `load(rom)` and `step(KEYS, RAND)`. A run
of the machine is a sequence of them (60_exceptions.md R237). -/

namespace Sys2Proof.Machine

/-- A host transaction (R50, R51). -/
inductive Transaction where
  | reset
  | load (rom : List Byte)
  | step (keys : BitVec 16) (rand : Byte)
  deriving DecidableEq, Repr

/-- `load(rom)`: the bytes are copied verbatim to 0x200 on, nothing else in memory changes; a ROM longer than
3584 bytes writes nothing and is reported (70_reset_and_hazards.md R255, R256, R257, R258). -/
def State.load (s : State) (rom : List Byte) : State :=
  if rom.length > Config.memSize - Config.progBase then { s with loadStatus := .tooLarge }
  else { s with mem := s.mem.writeBytes Config.progBase rom, loadStatus := .ok }

/-- The host presents `KEYS` and `RAND` for the coming step (R51, 40_cycle.md R102). -/
def State.present (s : State) (keys : BitVec 16) (rand : Byte) : State :=
  { s with keys := keys, randIn := some rand }

/-- The effect of one transaction. -/
def transact : Transaction → State → Host.Outcome State Fault Refusal
  | .reset, s => .next s.hostReset
  | .load rom, s => .next (s.load rom)
  | .step keys rand, s => Sys2Proof.Machine.step (s.present keys rand)

/-- The effect of a sequence of transactions, first one first. -/
def transactAll : List Transaction → State → Host.Outcome State Fault Refusal
  | [], s => .next s
  | t :: ts, s =>
    match transact t s with
    | .next s' => transactAll ts s'
    | .fault r => .fault r
    | .refused r => .refused r

end Sys2Proof.Machine
end

