-- ==== Sys2Proof/Safety.lean ====
section
/-! DEFINITION. What counts as a good state and a good end of a run (60_exceptions.md R237), and the invariant
that every step and every host transaction keeps. -/

namespace Sys2Proof.Machine

/-- No fault has occurred: "a state with `FAULTED = 1` is a bad end" (R237). -/
def State.safe (s : State) : Prop := s.faulted = false

/-- "A state whose `pc` points at `1nnn` with `nnn = pc` is the conventional good end ("parked")" (R237). -/
def State.parked (s : State) : Prop :=
  ∃ nnn : Addr12, s.fetch = some (encode (.jp nnn)) ∧ s.pc = addressOperand nnn

/-- The fault record and the rest of the state tell one story (60_exceptions.md R221, R224, R225): with no fault
the record is all zero; with one, `pc` is still at the faulting instruction, `FB_UPDATED` is 0, and code, opcode and
information are those of the condition the code names, which still holds. -/
def State.recordConsistent (s : State) : Prop :=
  (s.faulted = true ↔ s.faultCode ≠ .none) ∧
  (s.faulted = true → s.faultPc = s.pc ∧ s.fbUpdated = false) ∧
  match s.faultCode with
  | .none => s.faultPc = 0 ∧ s.faultOpcode = 0 ∧ s.faultInfo = 0
  | .stackOverflow => s.sp.val = 16 ∧
      ∃ nnn, s.faultOpcode = encode (.call nnn) ∧ s.faultInfo = addressOperand nnn
  | .stackUnderflow => s.sp.val = 0 ∧ s.faultOpcode = encode .ret ∧ s.faultInfo = 0
  | .fetchOutOfRange => s.pc.toNat > 0xFFE ∧ s.faultOpcode = 0 ∧ s.faultInfo = s.pc
  | .dataOutOfRange => s.faultInfo.toNat = max s.i.toNat 0x1000 ∧
      ((∃ x, s.faultOpcode = encode (.ldB x) ∧ s.i.toNat + 2 > 0xFFF) ∨
       (∃ x : Reg, s.faultOpcode = encode (.ldMemVx x) ∧ s.i.toNat + x.val > 0xFFF) ∨
       (∃ x : Reg, s.faultOpcode = encode (.ldVxMem x) ∧ s.i.toNat + x.val > 0xFFF) ∨
       (∃ x y n, s.faultOpcode = encode (.drw x y n) ∧ n ≠ 0 ∧ s.i.toNat + n.toNat - 1 > 0xFFF))
  | .keyIndexOutOfRange =>
      ∃ x, (s.faultOpcode = encode (.skp x) ∨ s.faultOpcode = encode (.sknp x)) ∧
        (s.getV x).toNat > 0xF ∧ s.faultInfo = s.wordV x

/-- The invariant: memory is in its canonical form and the fault record is consistent. -/
def State.Inv (s : State) : Prop := s.mem.wf ∧ s.recordConsistent

end Sys2Proof.Machine
end

