-- ==== Sys2Proof/Certificates/Slice0/Obligations.lean ====
section
/-! DEFINITION. The statements for the provers. A statement about `exec` speaks of the execute line of 40_cycle.md
R100: the state it starts from has `pc` already advanced past the instruction (R104). `Claims` holds what the
statements are written with. -/

open Sys2Proof Sys2Proof.Machine

namespace Sys2Proof.Claims

/-! ## Frames -/

/-- What an instruction may change, besides `pc`. -/
structure MayChange where
  regs : List Reg := []
  index : Bool := false
  callStack : Bool := false
  delay : Bool := false
  sound : Bool := false
  bytes : List Nat := []
  screen : Bool := false

/-- The fault record is the same. -/
def SameRecord (s t : State) : Prop :=
  t.faulted = s.faulted ∧ t.faultCode = s.faultCode ∧ t.faultPc = s.faultPc ∧
    t.faultOpcode = s.faultOpcode ∧ t.faultInfo = s.faultInfo

/-- Everything but `pc` and what `m` names is unchanged from `s` to `t`: every other register, `I`, the stack, the
timers, every other byte of memory, the framebuffer, the fault record, the outputs and the inputs. -/
def Frame (m : MayChange) (s t : State) : Prop :=
  (∀ r, r ∉ m.regs → t.getV r = s.getV r) ∧
  (m.index = false → t.i = s.i) ∧
  (m.callStack = false → t.sp = s.sp ∧ t.stack = s.stack) ∧
  (m.delay = false → t.dt = s.dt) ∧
  (m.sound = false → t.st = s.st) ∧
  (∀ a, a ∉ m.bytes → t.mem.read a = s.mem.read a) ∧
  (m.screen = false → t.fb = s.fb) ∧
  SameRecord s t ∧
  t.fbUpdated = s.fbUpdated ∧ t.loadStatus = s.loadStatus ∧
  t.keys = s.keys ∧ t.randIn = s.randIn ∧ t.randDraws = s.randDraws

/-- The registers `V0`..`Vx`. -/
def regsUpTo (x : Reg) : List Reg := (List.finRange 16).filter fun r => decide (r ≤ x)

/-- The addresses `I`..`I + count - 1`, computed as the meanings compute them. -/
def bytesFromI (s : State) (count : Nat) : List Nat := (List.range count).map s.dataAddress

/-- The instructions' destinations as the instruction tables name them (10_state.md R22, R27, R30 to R32, R39;
20_memory.md R60). -/
def writes (i : Instr) (s : State) : MayChange :=
  match i with
  | .cls => { screen := true }
  | .ret => { callStack := true }
  | .call _ => { callStack := true }
  | .jp _ => {}
  | .jpV0 _ => {}
  | .seImm _ _ => {}
  | .sneImm _ _ => {}
  | .seReg _ _ => {}
  | .sneReg _ _ => {}
  | .skp _ => {}
  | .sknp _ => {}
  | .ldImm x _ => { regs := [x] }
  | .addImm x _ => { regs := [x] }
  | .ldReg x _ => { regs := [x] }
  | .orReg x _ => { regs := [x] }
  | .andReg x _ => { regs := [x] }
  | .xorReg x _ => { regs := [x] }
  | .rnd x _ => { regs := [x] }
  | .ldVxDt x => { regs := [x] }
  | .ldVxK x => { regs := if s.keys = 0 then [] else [x] }
  | .addReg x _ => { regs := [x, Reg.vf] }
  | .subReg x _ => { regs := [x, Reg.vf] }
  | .subnReg x _ => { regs := [x, Reg.vf] }
  | .shr x _ => { regs := [x, Reg.vf] }
  | .shl x _ => { regs := [x, Reg.vf] }
  | .ldI _ => { index := true }
  | .addI _ => { index := true }
  | .ldF _ => { index := true }
  | .drw _ _ _ => { regs := [Reg.vf], screen := true }
  | .ldDtVx _ => { delay := true }
  | .ldStVx _ => { sound := true }
  | .ldB _ => { bytes := bytesFromI s 3 }
  | .ldMemVx x => { bytes := bytesFromI s (x.val + 1) }
  | .ldVxMem x => { regs := regsUpTo x }

/-! ## Opcodes as numbers (30_encoding.md R81) -/

/-- Format `NNN` with group digit `g`. -/
def opNNN (g : Nat) (nnn : Addr12) : Nat := g * 0x1000 + nnn.toNat

/-- Format `XKK`, and format `X` with its fixed low byte. -/
def opXKK (g : Nat) (x : Reg) (kk : Nat) : Nat := g * 0x1000 + x.val * 0x100 + kk

/-- Format `XYN`, and format `XY` with its fixed low digit. -/
def opXYN (g : Nat) (x y : Reg) (n : Nat) : Nat := g * 0x1000 + x.val * 0x100 + y.val * 0x10 + n

/-! ## What the instruction at `pc` is -/

/-- The next step of `s` fetches and runs `i`. -/
def RunsAt (s : State) (i : Instr) : Prop :=
  s.faulted = false ∧ s.pc.toNat ≤ 0xFFE ∧ decodeOpcode s.opcodeAtPc = .ok i

/-- The instructions that read `KEYS` or `RAND` (40_cycle.md R102). -/
def readsInputs : Instr → Bool
  | .skp _ => true
  | .sknp _ => true
  | .ldVxK _ => true
  | .rnd _ _ => true
  | _ => false

/-- The low opcode digit, the operands, and result and flag as functions of `V[x]` and `V[y]` before the
instruction, of the flag-setting arithmetic (42_alu.md R146 to R148, R150, R152). -/
def flagArithmetic : Instr → Option (Nat × Reg × Reg × (Nat → Nat → Nat) × (Nat → Nat → Nat))
  | .addReg x y => some (0x4, x, y, fun a b => (a + b) % 256, fun a b => if a + b > 255 then 1 else 0)
  | .subReg x y => some (0x5, x, y, fun a b => (a + 256 - b) % 256, fun a b => if a > b then 1 else 0)
  | .subnReg x y => some (0x7, x, y, fun a b => (b + 256 - a) % 256, fun a b => if b > a then 1 else 0)
  | .shr x y => some (0x6, x, y, fun a _ => a / 2, fun a _ => a % 2)
  | .shl x y => some (0xE, x, y, fun a _ => a * 2 % 256, fun a _ => a / 128)
  | _ => none

/-- A set bit of the sprite lies on the position `(px, py)` (44_display.md R182 to R184). -/
def SpriteSets (s : State) (x y : Reg) (n : Nibble) (px py : Nat) : Prop :=
  ∃ r c, r < n.toNat ∧ c < 8 ∧ px = (s.getV x).toNat % 64 + c ∧ py = (s.getV y).toNat % 32 + r ∧
    (s.mem.read (s.dataAddress r)).getLsbD (7 - c) = true

/-! ## The tables of the spec -/

/-- 10_state.md R24: `pc` at the end of a non-faulting step of `i`, from the state at the start of the step. -/
def pcAfter (i : Instr) (s : State) : Word :=
  match i with
  | .seImm x kk => if s.getV x = kk then s.pc + 4 else s.pc + 2
  | .sneImm x kk => if s.getV x ≠ kk then s.pc + 4 else s.pc + 2
  | .seReg x y => if s.getV x = s.getV y then s.pc + 4 else s.pc + 2
  | .sneReg x y => if s.getV x ≠ s.getV y then s.pc + 4 else s.pc + 2
  | .skp x => if s.keys.getLsbD (s.getV x).toNat = true then s.pc + 4 else s.pc + 2
  | .sknp x => if s.keys.getLsbD (s.getV x).toNat = false then s.pc + 4 else s.pc + 2
  | .jp nnn => nnn.setWidth 16
  | .call nnn => nnn.setWidth 16
  | .ret => (s.stack[s.sp.val - 1]?).getD 0
  | .jpV0 nnn => BitVec.ofNat 16 (nnn.toNat + (s.getV Reg.v0).toNat)
  | .ldVxK _ => if s.keys = 0 then s.pc else s.pc + 2
  | _ => s.pc + 2

/-- The lowest address above 0xFFF of an access that starts at `I` and reaches above 0xFFF. -/
def lowestBad (s : State) : Word := BitVec.ofNat 16 (max s.i.toNat 0x1000)

/-- 60_exceptions.md R221: the fault the instruction raises in the state, with its information. -/
def instrFault (i : Instr) (s : State) : Option (FaultCode × Word) :=
  match i with
  | .call nnn => if s.sp.val = 16 then some (.stackOverflow, nnn.setWidth 16) else none
  | .ret => if s.sp.val = 0 then some (.stackUnderflow, 0) else none
  | .drw _ _ n => if n ≠ 0 ∧ s.i.toNat + n.toNat - 1 > 0xFFF then some (.dataOutOfRange, lowestBad s) else none
  | .ldB _ => if s.i.toNat + 2 > 0xFFF then some (.dataOutOfRange, lowestBad s) else none
  | .ldMemVx x => if s.i.toNat + x.val > 0xFFF then some (.dataOutOfRange, lowestBad s) else none
  | .ldVxMem x => if s.i.toNat + x.val > 0xFFF then some (.dataOutOfRange, lowestBad s) else none
  | .skp x => if (s.getV x).toNat > 0xF then some (.keyIndexOutOfRange, (s.getV x).setWidth 16) else none
  | .sknp x => if (s.getV x).toNat > 0xF then some (.keyIndexOutOfRange, (s.getV x).setWidth 16) else none
  | _ => none

/-- 60_exceptions.md R221, R226: the fault of a step from an unfaulted state; fetch is checked first. -/
def stepFault (s : State) : Option (FaultCode × Word) :=
  if s.pc.toNat > 0xFFE then some (.fetchOutOfRange, s.pc)
  else
    match decodeOpcode s.opcodeAtPc with
    | .error _ => none
    | .ok i => instrFault i s

end Sys2Proof.Claims

open Sys2Proof.Claims

/-! ## Reset, the invariant, loading -/

/-- R250: the state after construction. -/
def Obligations.ResetGivesSpecValues : Prop :=
  (∀ r, State.reset.getV r = 0) ∧ State.reset.pc = 0x200 ∧ State.reset.i = 0 ∧ State.reset.sp.val = 0 ∧
  (∀ j, j < 16 → State.reset.stack[j]? = some 0) ∧ State.reset.dt = 0 ∧ State.reset.st = 0 ∧
  (∀ b, b < 80 → State.reset.mem.read (0x050 + b) = Config.fontByte b) ∧
  (∀ a, a < 0x050 ∨ 0x0A0 ≤ a → State.reset.mem.read a = 0) ∧
  (∀ px py, State.reset.fb.pixel px py = false) ∧
  State.reset.faulted = false ∧ faultNumber State.reset.faultCode = 0 ∧ State.reset.faultPc = 0 ∧
  State.reset.faultOpcode = 0 ∧ State.reset.faultInfo = 0 ∧ State.reset.fbUpdated = false ∧
  State.reset.loadStatus = .none

/-- R251 (decision D24): the transaction `reset` recreates the state after construction from any state, faulted
included; that the host's inputs stay (`KEYS`, a presented `RAND` byte, the draw counter) is the model's choice
(log 12). -/
def Obligations.ResetTransactionRecreatesConstruction : Prop :=
  ∀ s : State, ∃ t, transact .reset s = .next t ∧
    (∀ r, t.getV r = 0) ∧ t.pc = 0x200 ∧ t.i = 0 ∧ t.sp.val = 0 ∧ t.stack = State.reset.stack ∧
    t.dt = 0 ∧ t.st = 0 ∧ (∀ a, t.mem.read a = State.reset.mem.read a) ∧
    (∀ px py, t.fb.pixel px py = false) ∧ SameRecord State.reset t ∧ t.fbUpdated = false ∧
    t.loadStatus = .none ∧ t.keys = s.keys ∧ t.randIn = s.randIn ∧ t.randDraws = s.randDraws

/-- The invariant holds after reset. -/
def Obligations.ResetMeetsTheInvariant : Prop := State.reset.Inv

/-- Every step keeps the invariant: memory stays canonical, and the fault record stays zero while there is no
fault and true to its cause afterwards (decisions D3, D4, log 6). -/
def Obligations.StepKeepsInvariant : Prop :=
  ∀ s t : State, s.Inv → step s = .next t → t.Inv

/-- Every run of host transactions completes and keeps the invariant (decisions D1, D3, D4, log 6). -/
def Obligations.EveryRunOfTransactionsKeepsInvariant : Prop :=
  ∀ (ts : List Transaction) (s : State), s.Inv → ∃ t, transactAll ts s = .next t ∧ t.Inv

/-- In the canonical form equal contents are equal data (the model's choice, log 6). -/
def Obligations.CanonicalMemoriesWithEqualBytesAreEqual : Prop :=
  ∀ m m' : Memory, m.wf → m'.wf → (∀ a, a < 4096 → m.read a = m'.read a) → m = m'

/-- R255, R257 (decision D15): a ROM that fits is copied verbatim to 0x200 on, and nothing else changes but
LOAD_STATUS. -/
def Obligations.LoadCopiesRomVerbatim : Prop :=
  ∀ (s : State) (rom : List Byte), rom.length ≤ 3584 → ∃ t, transact (.load rom) s = .next t ∧
    (∀ k, k < rom.length → rom[k]? = some (t.mem.read (0x200 + k))) ∧
    (∀ a, a < 0x200 ∨ 0x200 + rom.length ≤ a → t.mem.read a = s.mem.read a) ∧
    t = { s with mem := t.mem, loadStatus := .ok }

/-- R256 (decision D15): a longer ROM writes nothing and is reported. -/
def Obligations.LoadRefusesTooLargeRom : Prop :=
  ∀ (s : State) (rom : List Byte), rom.length > 3584 →
    ∃ t, transact (.load rom) s = .next t ∧ t.loadStatus = .tooLarge ∧
      (∀ r, t.getV r = s.getV r) ∧ t = { s with loadStatus := t.loadStatus }

/-! ## Encoding -/

/-- Decode and encode agree: every instruction, with every operand, is read back from its bytes, whatever bytes
follow. -/
def Obligations.DecodeUndoesEncode : Prop :=
  ∀ (i : Instr) (rest : List Byte), decode (encodeBytes i ++ rest) = .ok (i, rest)

/-- An opcode that decodes is the encoding of what it decodes to: no bit of it is dropped. -/
def Obligations.EncodeUndoesDecode : Prop :=
  ∀ (op : Opcode) (i : Instr), decodeOpcode op = .ok i → encode i = op

/-- R84, R88 (decision D12): the group map decodes exactly as the mask and match list does, and no two rows of the
list match one opcode. -/
def Obligations.DecoderFollowsMaskAndMatchList : Prop :=
  ∀ op : Opcode,
    (∀ i, decodeOpcode op = .ok i → (rowOf i).covers op = true) ∧
    (∀ i, (rowOf i).covers op = true → ∃ j, decodeOpcode op = .ok j ∧ rowOf j = rowOf i)

/-- R90 (derived in the spec): the unknown opcodes are exactly the six sets listed. -/
def Obligations.UnknownOpcodesAreTheListedOnes : Prop :=
  ∀ op : Opcode, (∃ r, decodeOpcode op = .error r) ↔
    (op.toNat < 0x1000 ∧ op.toNat ≠ 0x00E0 ∧ op.toNat ≠ 0x00EE) ∨
    (op.toNat / 0x1000 = 0x5 ∧ op.toNat % 16 ≠ 0) ∨
    (op.toNat / 0x1000 = 0x8 ∧ op.toNat % 16 ∈ [0x8, 0x9, 0xA, 0xB, 0xC, 0xD, 0xF]) ∨
    (op.toNat / 0x1000 = 0x9 ∧ op.toNat % 16 ≠ 0) ∨
    (op.toNat / 0x1000 = 0xE ∧ op.toNat % 256 ∉ [0x9E, 0xA1]) ∨
    (op.toNat / 0x1000 = 0xF ∧
      op.toNat % 256 ∉ [0x07, 0x0A, 0x15, 0x18, 0x1E, 0x29, 0x33, 0x55, 0x65])

/-- Words written out from the encodings of the instruction rules, one or more a family, and unknown ones. -/
def Obligations.WordsOfTheSpecDecode : Prop :=
  decodeTableWord 16 0b0000000011100000 = some .cls ∧
  decodeTableWord 16 0b0000000011101110 = some .ret ∧
  decodeTableWord 16 0b0010001000010000 = some (.call 0x210) ∧
  decodeTableWord 16 0b0011001100010000 = some (.seImm 3 0x10) ∧
  decodeTableWord 16 0b0101000100100000 = some (.seReg 1 2) ∧
  decodeTableWord 16 0b0110101000000101 = some (.ldImm 0xA 0x05) ∧
  decodeTableWord 16 0b1000000000010100 = some (.addReg 0 1) ∧
  decodeTableWord 16 0b1101000000010010 = some (.drw 0 1 2) ∧
  decodeTableWord 16 0b1110000110011110 = some (.skp 1) ∧
  decodeTableWord 16 0b1111001000001010 = some (.ldVxK 2) ∧
  decodeTableWord 16 0b1111001001010101 = some (.ldMemVx 2) ∧
  decodeTableWord 16 0b0101000100100001 = none ∧
  decodeTableWord 16 0b0000000100100011 = none

/-! ## The step -/

/-- When the bytes at `pc` decode to `i`, the step is `i` executed with `pc` advanced by 2, then, unless `i`
faulted, the ticks of both timers and `FB_UPDATED` (R100, R104; tick order decision D6). That a presented random
byte is used up by `Cxkk`, and the draw counter, are the model's (log 2). -/
def Obligations.StepRunsTheDecodedInstruction : Prop :=
  ∀ (s t : State) (i : Instr) (rest : List Byte), s.faulted = false → s.pc.toNat ≤ 0xFFE →
    decode [s.mem.read s.pc.toNat, s.mem.read (s.pc.toNat + 1)] = .ok (i, rest) →
    exec i { s with pc := s.pc + 2 } = .next t →
    step s = .next
      (if t.faulted then t
       else { t with
        dt := if t.dt = 0 then 0 else t.dt - 1
        st := if t.st = 0 then 0 else t.st - 1
        fbUpdated := match i with
          | .cls => true
          | .drw _ _ _ => true
          | _ => false
        randIn := match i with
          | .rnd _ _ => none
          | _ => t.randIn
        randDraws := match i with
          | .rnd _ _ => t.randDraws + 1
          | _ => t.randDraws })

/-- R89: an unknown opcode is a no-op whose step advances `pc` by 2 and ticks the timers and changes nothing else;
it raises no fault. (The output `FB_UPDATED` is another statement's, `FbUpdatedExactlyAfterDrawing`.) -/
def Obligations.UnknownOpcodeIsNoOp : Prop :=
  ∀ (s : State) (r : Reject), s.faulted = false → s.pc.toNat ≤ 0xFFE →
    decodeOpcode s.opcodeAtPc = .error r → ∃ t, step s = .next t ∧
      t.pc = s.pc + 2 ∧ t.dt.toNat = s.dt.toNat - 1 ∧ t.st.toNat = s.st.toNat - 1 ∧
      Frame { delay := true, sound := true } { s with fbUpdated := t.fbUpdated } t

/-- R24 (decision D25): where `pc` is after a non-faulting step of each instruction. -/
def Obligations.ProgramCounterAfterEachInstruction : Prop :=
  ∀ (s t : State) (i : Instr), RunsAt s i → step s = .next t → t.faulted = false → t.pc = pcAfter i s

/-- R108 (decision D6): a non-faulting step lowers each timer by one, clamped at 0, from the value it had or the
value the instruction just set. -/
def Obligations.TimersTickOnceAStep : Prop :=
  ∀ (s t : State) (i : Instr), RunsAt s i → step s = .next t → t.faulted = false →
    t.dt.toNat = (match i with
      | .ldDtVx x => (s.getV x).toNat
      | _ => s.dt.toNat) - 1 ∧
    t.st.toNat = (match i with
      | .ldStVx x => (s.getV x).toNat
      | _ => s.st.toNat) - 1

/-- R208 (derived in the spec; decision D6): over any `n` non-faulting steps none of which executes `Fx15`, `DT`
falls by `n`, clamped at 0; so a timer that starts at `n` reads 0 after `n` steps. -/
def Obligations.DelayTimerRunsDown : Prop :=
  ∀ (run : Nat → State) (n : Nat),
    (∀ k, k < n → step (run k) = .next (run (k + 1)) ∧ (run (k + 1)).faulted = false ∧
      ∀ x, decodeOpcode (run k).opcodeAtPc ≠ .ok (.ldDtVx x)) →
    (run n).dt.toNat = (run 0).dt.toNat - n

/-- R54 (decision D22): `FB_UPDATED` is 1 exactly after a step that executed `00E0` or `Dxyn` without fault. -/
def Obligations.FbUpdatedExactlyAfterDrawing : Prop :=
  ∀ s t : State, step s = .next t →
    (t.fbUpdated = true ↔ t.faulted = false ∧
      (RunsAt s .cls ∨ ∃ x y n, RunsAt s (.drw x y n)))

/-- R57 and R156 (decision D11): a step never writes `KEYS`; the byte presented as `RAND` stands until a `Cxkk`
uses it, and only a `Cxkk` consumes one. The fields are the model's (log 2). -/
def Obligations.StepLeavesInputsButOneRandomByte : Prop :=
  ∀ s t : State, step s = .next t →
    t.keys = s.keys ∧
    ((∃ x kk, RunsAt s (.rnd x kk)) → t.randIn = none ∧ t.randDraws = s.randDraws + 1) ∧
    ((∀ x kk, ¬ RunsAt s (.rnd x kk)) → t.randIn = s.randIn ∧ t.randDraws = s.randDraws)

/-- R102 (decisions D10, D11): a step that executes no `Ex9E`, `ExA1`, `Fx0A` or `Cxkk` does not depend on `KEYS`
or `RAND`. -/
def Obligations.OtherStepsDoNotDependOnInputs : Prop :=
  ∀ (s t : State) (keys : BitVec 16) (r : Option Byte) (d : Nat),
    (∀ i, RunsAt s i → readsInputs i = false) → step s = .next t →
    step { s with keys := keys, randIn := r, randDraws := d } =
      .next { t with keys := keys, randIn := r, randDraws := d }

/-- R40, R41, R51, R102 (decisions D1, D10, D11): the transaction `step(KEYS, RAND)` runs the step with the inputs it
presents. `Cxkk` masks that byte; `Ex9E`, `ExA1` and `Fx0A` see those keys; what the input fields held before makes no
difference, and the sample stands after the step (the input fields are the model's, logs 1 and 2). -/
def Obligations.StepTransactionRunsWithThePresentedInputs : Prop :=
  ∀ (s : State) (keys : BitVec 16) (rand : Byte) (x : Reg) (kk : Byte),
    (RunsAt s (.rnd x kk) → ∃ t, transact (.step keys rand) s = .next t ∧
      (∀ b, (t.getV x).getLsbD b = (rand.getLsbD b && kk.getLsbD b)) ∧ t.pc = s.pc + 2) ∧
    (RunsAt s (.skp x) → (s.getV x).toNat ≤ 0xF → ∃ t, transact (.step keys rand) s = .next t ∧
      t.faulted = false ∧
      t.pc = if keys.getLsbD (s.getV x).toNat = true then s.pc + 4 else s.pc + 2) ∧
    (RunsAt s (.sknp x) → (s.getV x).toNat ≤ 0xF → ∃ t, transact (.step keys rand) s = .next t ∧
      t.faulted = false ∧
      t.pc = if keys.getLsbD (s.getV x).toNat = false then s.pc + 4 else s.pc + 2) ∧
    (RunsAt s (.ldVxK x) → ∃ t, transact (.step keys rand) s = .next t ∧
      ((∀ k, k < 16 → keys.getLsbD k = false) → t.pc = s.pc ∧ t.v = s.v) ∧
      (∀ k, k < 16 → keys.getLsbD k = true → (∀ j, j < k → keys.getLsbD j = false) →
        (t.getV x).toNat = k ∧ t.pc = s.pc + 2)) ∧
    (∀ (keys' : BitVec 16) (rand' : Option Byte),
      transact (.step keys rand) { s with keys := keys', randIn := rand' } = transact (.step keys rand) s) ∧
    (∃ t, transact (.step keys rand) s = .next t ∧ t.keys = keys)

/-- R237 (decision D20): a parked core stays parked; only its timers and `FB_UPDATED` change. -/
def Obligations.ParkedCoreStaysParked : Prop :=
  ∀ s : State, s.safe → s.parked → ∃ t, step s = .next t ∧ t.safe ∧ t.parked ∧
    t.dt.toNat = s.dt.toNat - 1 ∧ t.st.toNat = s.st.toNat - 1 ∧
    t = { s with dt := t.dt, st := t.st, fbUpdated := false }

/-- An opcode placed for the next step is the one the next step decodes, from any state (the model's own
operation, log 8). -/
def Obligations.PlacedOpcodeIsFetchedNext : Prop :=
  ∀ (s : State) (i : Instr), RunsAt (s.withFetchWord 16 (encode i).toNat) i ∧
    (s.faulted = false → s.pc.toNat ≤ 0xFFE →
      s.withFetchWord 16 (encode i).toNat = { s with mem := (s.withFetchWord 16 (encode i).toNat).mem } ∧
      ∀ a, a ≠ s.pc.toNat → a ≠ s.pc.toNat + 1 →
        (s.withFetchWord 16 (encode i).toNat).mem.read a = s.mem.read a)

/-! ## Faults -/

/-- R221, R222, R224 to R226 (decisions D2 to D5, D8, D9): a step from an unfaulted state faults exactly under the
listed conditions; a faulting step writes the record and changes nothing else (`pc` stays at the instruction, the
timers do not tick), any other step leaves the record alone. -/
def Obligations.FaultsAreExactlyTheListedOnesAndPrecise : Prop :=
  ∀ s : State, s.faulted = false →
    (∀ code info, stepFault s = some (code, info) →
      step s = .next { s with
        faulted := true, faultCode := code, faultPc := s.pc,
        faultOpcode := if s.pc.toNat > 0xFFE then 0 else s.opcodeAtPc,
        faultInfo := info, fbUpdated := false }) ∧
    (stepFault s = none → ∃ t, step s = .next t ∧ SameRecord s t)

/-- R110 (decision D3): a step in the faulted state has no effect but `FB_UPDATED <- 0`. -/
def Obligations.FaultedCoreIsInert : Prop :=
  ∀ s : State, s.faulted = true → step s = .next { s with fbUpdated := false }

/-- R228, R258 (decisions D3, D15): no sequence of steps and loads leaves the faulted state or changes anything but
memory, LOAD_STATUS, FB_UPDATED and the host's inputs. -/
def Obligations.OnlyResetLeavesTheFaultedState : Prop :=
  ∀ (ts : List Transaction) (s : State), s.faulted = true → Transaction.reset ∉ ts →
    ∃ t, transactAll ts s = .next t ∧ SameRecord s t ∧
      t = { s with mem := t.mem, loadStatus := t.loadStatus, fbUpdated := t.fbUpdated, keys := t.keys,
                   randIn := t.randIn }

/-! ## Control flow -/

/-- R121: `1nnn`, its opcode and its effect. -/
def Obligations.JumpGoesToItsAddress : Prop :=
  ∀ (s : State) (nnn : Addr12), (encode (.jp nnn)).toNat = opNNN 0x1 nnn ∧ ∃ t, exec (.jp nnn) s = .next t ∧
    t.pc.toNat = nnn.toNat ∧ Frame {} s t

/-- R127 (not masked: C3): `Bnnn` goes to `nnn + V0`. -/
def Obligations.IndexedJumpAddsV0Unmasked : Prop :=
  ∀ (s : State) (nnn : Addr12), ∃ t, exec (.jpV0 nnn) s = .next t ∧
    t.pc.toNat = nnn.toNat + (s.getV 0).toNat ∧ Frame {} s t

/-- R123 to R126: the four skips, their opcodes and their effects. -/
def Obligations.SkipsAdvanceByTwoWhenTheirConditionHolds : Prop :=
  ∀ (s : State) (x y : Reg) (kk : Byte),
    ((encode (.seImm x kk)).toNat = opXKK 0x3 x kk.toNat ∧ (encode (.sneImm x kk)).toNat = opXKK 0x4 x kk.toNat ∧
      (encode (.seReg x y)).toNat = opXYN 0x5 x y 0 ∧ (encode (.sneReg x y)).toNat = opXYN 0x9 x y 0) ∧
    (∃ t, exec (.seImm x kk) s = .next t ∧
      t.pc = (if s.getV x = kk then s.pc + 2 else s.pc) ∧ Frame {} s t) ∧
    (∃ t, exec (.sneImm x kk) s = .next t ∧
      t.pc = (if s.getV x ≠ kk then s.pc + 2 else s.pc) ∧ Frame {} s t) ∧
    (∃ t, exec (.seReg x y) s = .next t ∧
      t.pc = (if s.getV x = s.getV y then s.pc + 2 else s.pc) ∧ Frame {} s t) ∧
    (∃ t, exec (.sneReg x y) s = .next t ∧
      t.pc = (if s.getV x ≠ s.getV y then s.pc + 2 else s.pc) ∧ Frame {} s t)

/-- R122 (capacity: decision D5): a call with room pushes the advanced `pc` and jumps. -/
def Obligations.CallPushesReturnAddressAndJumps : Prop :=
  ∀ (s : State) (nnn : Addr12), s.sp.val < 16 → ∃ t, exec (.call nnn) s = .next t ∧
    t.pc.toNat = nnn.toNat ∧ t.sp.val = s.sp.val + 1 ∧ t.stack[s.sp.val]? = some s.pc ∧
    (∀ j, j ≠ s.sp.val → t.stack[j]? = s.stack[j]?) ∧ Frame { callStack := true } s t

/-- R120 (range of SP: decision D5): a return with an entry pops it; the entry keeps its value. -/
def Obligations.ReturnPopsTheLastEntry : Prop :=
  ∀ (s : State) (j : Nat), s.sp.val = j + 1 → ∃ t, exec .ret s = .next t ∧
    s.stack[j]? = some t.pc ∧ t.sp.val = j ∧ t.stack = s.stack ∧ Frame { callStack := true } s t

/-- R122 (decision D5): "the matching `00EE` returns to the instruction after the call", from any state that has
the stack the call left. -/
def Obligations.ReturnUndoesCall : Prop :=
  ∀ (s : State) (nnn : Addr12), s.sp.val < 16 → ∃ t, exec (.call nnn) s = .next t ∧
    ∀ u : State, u.stack = t.stack → u.sp = t.sp →
      ∃ w, exec .ret u = .next w ∧ w.pc = s.pc ∧ w.sp = s.sp

/-! ## Load, arithmetic and logic -/

/-- R140, R142 to R145: immediate load, copy and bitwise logic, bit by bit, with their opcodes; VF is not written
except as the destination. -/
def Obligations.LoadsCopiesAndBitwiseLogic : Prop :=
  ∀ (s : State) (x y : Reg) (kk : Byte),
    ((encode (.ldImm x kk)).toNat = opXKK 0x6 x kk.toNat ∧ (encode (.ldReg x y)).toNat = opXYN 0x8 x y 0 ∧
      (encode (.orReg x y)).toNat = opXYN 0x8 x y 1 ∧ (encode (.andReg x y)).toNat = opXYN 0x8 x y 2 ∧
      (encode (.xorReg x y)).toNat = opXYN 0x8 x y 3) ∧
    (∃ t, exec (.ldImm x kk) s = .next t ∧ t.getV x = kk ∧ t.pc = s.pc ∧ Frame { regs := [x] } s t) ∧
    (∃ t, exec (.ldReg x y) s = .next t ∧ t.getV x = s.getV y ∧ t.pc = s.pc ∧
      Frame { regs := [x] } s t) ∧
    (∃ t, exec (.orReg x y) s = .next t ∧ t.pc = s.pc ∧ Frame { regs := [x] } s t ∧
      ∀ b, b < 8 → (t.getV x).getLsbD b = ((s.getV x).getLsbD b || (s.getV y).getLsbD b)) ∧
    (∃ t, exec (.andReg x y) s = .next t ∧ t.pc = s.pc ∧ Frame { regs := [x] } s t ∧
      ∀ b, b < 8 → (t.getV x).getLsbD b = ((s.getV x).getLsbD b && (s.getV y).getLsbD b)) ∧
    (∃ t, exec (.xorReg x y) s = .next t ∧ t.pc = s.pc ∧ Frame { regs := [x] } s t ∧
      ∀ b, b < 8 → (t.getV x).getLsbD b = ((s.getV x).getLsbD b ^^ (s.getV y).getLsbD b))

/-- R141: the immediate add, its opcode; it wraps and writes no flag. -/
def Obligations.AddImmediateWrapsWithoutFlag : Prop :=
  ∀ (s : State) (x : Reg) (kk : Byte), (encode (.addImm x kk)).toNat = opXKK 0x7 x kk.toNat ∧
    ∃ t, exec (.addImm x kk) s = .next t ∧
    (t.getV x).toNat = ((s.getV x).toNat + kk.toNat) % 256 ∧ t.pc = s.pc ∧ Frame { regs := [x] } s t

/-- R146 to R150, R152: add, subtract, reverse subtract and the shifts, each with its opcode and its flag; result and flag are
computed from the operands before the instruction and the flag is written last. -/
def Obligations.FlagArithmeticWritesTheFlagLast : Prop :=
  ∀ (s : State) (i : Instr) (low : Nat) (x y : Reg) (result flag : Nat → Nat → Nat),
    flagArithmetic i = some (low, x, y, result, flag) →
    (encode i).toNat = opXYN 0x8 x y low ∧ ∃ t, exec i s = .next t ∧
      (t.getV Reg.vf).toNat = flag (s.getV x).toNat (s.getV y).toNat ∧
      (x ≠ Reg.vf → (t.getV x).toNat = result (s.getV x).toNat (s.getV y).toNat) ∧
      t.pc = s.pc ∧ Frame { regs := [x, Reg.vf] } s t

/-- R155, R157, R173: the three writers of `I`, their opcodes and their effects. -/
def Obligations.IndexRegisterWriters : Prop :=
  ∀ (s : State) (x : Reg) (nnn : Addr12),
    ((encode (.ldI nnn)).toNat = opNNN 0xA nnn ∧ (encode (.addI x)).toNat = opXKK 0xF x 0x1E ∧
      (encode (.ldF x)).toNat = opXKK 0xF x 0x29) ∧
    (∃ t, exec (.ldI nnn) s = .next t ∧ t.i.toNat = nnn.toNat ∧ t.pc = s.pc ∧
      Frame { index := true } s t) ∧
    (∃ t, exec (.addI x) s = .next t ∧ t.i.toNat = (s.i.toNat + (s.getV x).toNat) % 65536 ∧ t.pc = s.pc ∧
      Frame { index := true } s t) ∧
    (∃ t, exec (.ldF x) s = .next t ∧ t.i.toNat = 0x050 + 5 * (s.getV x).toNat ∧ t.pc = s.pc ∧
      Frame { index := true } s t)

/-- R156 (decision D11): `Cxkk` masks the byte the host presents; where it presents none, the byte is the free
value at the draw counter, whatever that value is (the model's, log 2). -/
def Obligations.RandomByteIsMasked : Prop :=
  ∀ (s : State) (x : Reg) (kk : Byte), ∃ t, exec (.rnd x kk) s = .next t ∧
    (∀ r, s.randIn = some r → ∀ b, (t.getV x).getLsbD b = (r.getLsbD b && kk.getLsbD b)) ∧
    (s.randIn = none → t.getV x = Config.freeRand s.randDraws &&& kk) ∧
    t.pc = s.pc ∧ Frame { regs := [x] } s t

/-! ## Memory block -/

/-- R170 (range: decision D2): `Fx33` in range stores the three decimal digits, most significant first. -/
def Obligations.BcdDigitsReconstructTheValue : Prop :=
  ∀ (s : State) (x : Reg), s.i.toNat + 2 ≤ 0xFFF → ∃ t, exec (.ldB x) s = .next t ∧
    (t.mem.read (s.dataAddress 0)).toNat = (s.getV x).toNat / 100 ∧
    (t.mem.read (s.dataAddress 1)).toNat ≤ 9 ∧ (t.mem.read (s.dataAddress 2)).toNat ≤ 9 ∧
    100 * (t.mem.read (s.dataAddress 0)).toNat + 10 * (t.mem.read (s.dataAddress 1)).toNat +
      (t.mem.read (s.dataAddress 2)).toNat = (s.getV x).toNat ∧
    t.pc = s.pc ∧ Frame { bytes := bytesFromI s 3 } s t

/-- R171 (range: decision D2; I unchanged: D26): `Fx55` in range stores `V0`..`Vx` at `I`.. -/
def Obligations.BlockStoreWritesRegistersInOrder : Prop :=
  ∀ (s : State) (x : Reg), s.i.toNat + x.val ≤ 0xFFF → ∃ t, exec (.ldMemVx x) s = .next t ∧
    (∀ j : Reg, j ≤ x → t.mem.read (s.dataAddress j.val) = s.getV j) ∧
    t.pc = s.pc ∧ Frame { bytes := bytesFromI s (x.val + 1) } s t

/-- R172 (range: decision D2; I unchanged: D26): `Fx65` in range loads `V0`..`Vx` from `I`.. -/
def Obligations.BlockLoadReadsRegistersInOrder : Prop :=
  ∀ (s : State) (x : Reg), s.i.toNat + x.val ≤ 0xFFF → ∃ t, exec (.ldVxMem x) s = .next t ∧
    (∀ j : Reg, j ≤ x → t.getV j = s.mem.read (s.dataAddress j.val)) ∧
    t.pc = s.pc ∧ Frame { regs := regsUpTo x } s t

/-- R172's example and the source's property: `Fx55` then `Fx65` through the same `I` and `x` brings `V0`..`Vx`
back, whatever happened to the registers in between (decisions D2, D26). -/
def Obligations.BlockStoreThenLoadRoundTrips : Prop :=
  ∀ (s : State) (x : Reg), s.i.toNat + x.val ≤ 0xFFF → ∃ t, exec (.ldMemVx x) s = .next t ∧
    ∀ u : State, u.mem = t.mem → u.i = s.i →
      ∃ w, exec (.ldVxMem x) u = .next w ∧ ∀ j : Reg, j ≤ x → w.getV j = s.getV j

/-- R74 (derived in the spec): a fetch at the address just stored to sees the stored bytes. -/
def Obligations.FetchSeesStoredBytes : Prop :=
  ∀ (s : State) (x : Reg), 1 ≤ x.val → s.i.toNat + x.val ≤ 0xFFF → ∃ t, exec (.ldMemVx x) s = .next t ∧
    ({ t with pc := s.i } : State).fetch.map BitVec.toNat =
      some ((s.getV 0).toNat * 256 + (s.getV 1).toNat)

/-! ## Display -/

/-- R180: `00E0` turns every pixel off and writes nothing else; VF is not written. -/
def Obligations.ClearTurnsEveryPixelOff : Prop :=
  ∀ s : State, ∃ t, exec .cls s = .next t ∧
    (∀ px py, px < 64 → py < 32 → t.fb.pixel px py = false) ∧ t.pc = s.pc ∧ Frame { screen := true } s t

/-- R182 to R188 (clipping: decision D7; range: D8): `Dxyn` in range, or with `n = 0`, inverts exactly the visible
pixels on which a set sprite bit lies, and VF is 1 exactly when one of them was on. -/
def Obligations.DrawXorsTheSpriteAndReportsCollision : Prop :=
  ∀ (s : State) (x y : Reg) (n : Nibble), n = 0 ∨ s.i.toNat + n.toNat - 1 ≤ 0xFFF →
    ∃ t, exec (.drw x y n) s = .next t ∧
      (∀ px py, px < 64 → py < 32 →
        (SpriteSets s x y n px py → t.fb.pixel px py = !s.fb.pixel px py) ∧
        (¬ SpriteSets s x y n px py → t.fb.pixel px py = s.fb.pixel px py)) ∧
      (t.getV Reg.vf = 0 ∨ t.getV Reg.vf = 1) ∧
      (t.getV Reg.vf = 1 ↔ ∃ px py, px < 64 ∧ py < 32 ∧ SpriteSets s x y n px py ∧
        s.fb.pixel px py = true) ∧
      t.pc = s.pc ∧ Frame { regs := [Reg.vf], screen := true } s t

/-- R189 (derived in the spec; decision D7): drawing the same sprite twice at the same anchor restores the
framebuffer, and the second draw collides exactly when the first turned a pixel on. -/
def Obligations.DrawingTwiceRestoresTheScreen : Prop :=
  ∀ (s : State) (x y : Reg) (n : Nibble), n = 0 ∨ s.i.toNat + n.toNat - 1 ≤ 0xFFF →
    ∃ t, exec (.drw x y n) s = .next t ∧
      ((t.getV x).toNat % 64 = (s.getV x).toNat % 64 → (t.getV y).toNat % 32 = (s.getV y).toNat % 32 →
        ∃ u, exec (.drw x y n) t = .next u ∧ u.fb = s.fb ∧
          (u.getV Reg.vf = 1 ↔ ∃ px py, px < 64 ∧ py < 32 ∧ s.fb.pixel px py = false ∧
            t.fb.pixel px py = true))

/-! ## Keypad and timers -/

/-- R200, R201 (range of the key number: decision D9): the key skips. -/
def Obligations.KeySkipsTestTheKeysLevel : Prop :=
  ∀ (s : State) (x : Reg), (s.getV x).toNat ≤ 0xF →
    (∃ t, exec (.skp x) s = .next t ∧ Frame {} s t ∧
      t.pc = if s.keys.getLsbD (s.getV x).toNat = true then s.pc + 2 else s.pc) ∧
    (∃ t, exec (.sknp x) s = .next t ∧ Frame {} s t ∧
      t.pc = if s.keys.getLsbD (s.getV x).toNat = false then s.pc + 2 else s.pc)

/-- R203: the key wait, its opcode; it latches the least pressed key, or goes back on itself when none is pressed. -/
def Obligations.KeyWaitLatchesTheLeastPressedKey : Prop :=
  ∀ (s : State) (x : Reg), (encode (.ldVxK x)).toNat = opXKK 0xF x 0x0A ∧ ∃ t, exec (.ldVxK x) s = .next t ∧
    ((∀ k, k < 16 → s.keys.getLsbD k = false) → t.pc = s.pc - 2 ∧ Frame {} s t) ∧
    (∀ k, k < 16 → s.keys.getLsbD k = true → (∀ j, j < k → s.keys.getLsbD j = false) →
      (t.getV x).toNat = k ∧ t.pc = s.pc ∧ Frame { regs := [x] } s t)

/-- R204, R269: while no key is pressed the wait goes on for any number of steps: `pc` and all else stand, only the
timers run down and `FB_UPDATED` is 0 (tick order decision D6). -/
def Obligations.KeyWaitStallsWhileNoKeyIsPressed : Prop :=
  ∀ (n : Nat) (s : State) (x : Reg), RunsAt s (.ldVxK x) → s.keys = 0 →
    ∃ t : State, Host.Core.run Sys2Proof.core (n + 1) s = Host.Outcome.next t ∧
      t.dt.toNat = s.dt.toNat - (n + 1) ∧ t.st.toNat = s.st.toNat - (n + 1) ∧
      t = { s with dt := t.dt, st := t.st, fbUpdated := false }

/-- R205 to R207: the timer transfers, before the tick of their step (tick order decision D6). -/
def Obligations.TimerTransfersCopyTheRegister : Prop :=
  ∀ (s : State) (x : Reg),
    (∃ t, exec (.ldVxDt x) s = .next t ∧ t.getV x = s.dt ∧ t.pc = s.pc ∧ Frame { regs := [x] } s t) ∧
    (∃ t, exec (.ldDtVx x) s = .next t ∧ t.dt = s.getV x ∧ t.pc = s.pc ∧ Frame { delay := true } s t) ∧
    (∃ t, exec (.ldStVx x) s = .next t ∧ t.st = s.getV x ∧ t.pc = s.pc ∧ Frame { sound := true } s t)

/-! ## Whole-machine rules -/

/-- R22, R27, R30 to R32, R39, R60: an instruction that does not fault changes, besides `pc`, only what the tables
name for it; no other instruction writes a register, `I`, the stack, a timer, memory or the framebuffer. -/
def Obligations.OnlyTheNamedInstructionsWriteEachState : Prop :=
  ∀ (s t : State) (i : Instr), s.faulted = false → exec i s = .next t → t.faulted = false →
    Frame (writes i s) s t
end

