-- ==== Sys2Proof/Laws/State.lean ====
section
/-! SUPPORT. What each named update of the state leaves in each field: one lemma per field per update, true by
`rfl`, so that no later proof unfolds a record update. -/

namespace Sys2Proof.Machine.State

variable (s : State)

/-! ### The fields have the sizes the parameters of 00_scope.md R6 name -/

theorem v_size : (s.v : Vector (BitVec Config.regWidth) Config.numV) = s.v := rfl
theorem pc_width : (s.pc : BitVec Config.pcWidth) = s.pc := rfl
theorem i_width : (s.i : BitVec Config.iWidth) = s.i := rfl
theorem sp_range : s.sp.val ≤ Config.spMax := Nat.le_of_lt_succ s.sp.isLt
theorem stack_size : (s.stack : Vector (BitVec Config.stackEntryWidth) Config.stackDepth) = s.stack := rfl
theorem dt_width : (s.dt : BitVec Config.timerWidth) = s.dt := rfl
theorem st_width : (s.st : BitVec Config.timerWidth) = s.st := rfl
theorem keys_width : (s.keys : BitVec Config.numKeys) = s.keys := rfl
theorem fb_size : (s.fb : Vector (BitVec Config.fbWidth) Config.fbHeight) = s.fb := rfl
theorem opcode_width (op : Opcode) : (op : BitVec Config.opcodeWidth) = op := rfl
theorem opcode_bytes (ins : Instr) : (encodeBytes ins).length = Config.opcodeBytes := rfl
theorem font_size : Config.font.length = Config.fontGlyphs * Config.fontGlyphBytes := rfl
theorem maxRom_eq : Config.maxRom = Config.memSize - Config.progBase := rfl

/-! ### `setV` -/

@[simp] theorem setV_v (x : Reg) (b : Byte) : (s.setV x b).v = s.v.set x.val b x.isLt := rfl
@[simp] theorem setV_pc (x : Reg) (b : Byte) : (s.setV x b).pc = s.pc := rfl
@[simp] theorem setV_i (x : Reg) (b : Byte) : (s.setV x b).i = s.i := rfl
@[simp] theorem setV_sp (x : Reg) (b : Byte) : (s.setV x b).sp = s.sp := rfl
@[simp] theorem setV_stack (x : Reg) (b : Byte) : (s.setV x b).stack = s.stack := rfl
@[simp] theorem setV_dt (x : Reg) (b : Byte) : (s.setV x b).dt = s.dt := rfl
@[simp] theorem setV_st (x : Reg) (b : Byte) : (s.setV x b).st = s.st := rfl
@[simp] theorem setV_mem (x : Reg) (b : Byte) : (s.setV x b).mem = s.mem := rfl
@[simp] theorem setV_fb (x : Reg) (b : Byte) : (s.setV x b).fb = s.fb := rfl
@[simp] theorem setV_faulted (x : Reg) (b : Byte) : (s.setV x b).faulted = s.faulted := rfl
@[simp] theorem setV_faultCode (x : Reg) (b : Byte) : (s.setV x b).faultCode = s.faultCode := rfl
@[simp] theorem setV_faultPc (x : Reg) (b : Byte) : (s.setV x b).faultPc = s.faultPc := rfl
@[simp] theorem setV_faultOpcode (x : Reg) (b : Byte) : (s.setV x b).faultOpcode = s.faultOpcode := rfl
@[simp] theorem setV_faultInfo (x : Reg) (b : Byte) : (s.setV x b).faultInfo = s.faultInfo := rfl
@[simp] theorem setV_fbUpdated (x : Reg) (b : Byte) : (s.setV x b).fbUpdated = s.fbUpdated := rfl
@[simp] theorem setV_loadStatus (x : Reg) (b : Byte) : (s.setV x b).loadStatus = s.loadStatus := rfl
@[simp] theorem setV_keys (x : Reg) (b : Byte) : (s.setV x b).keys = s.keys := rfl
@[simp] theorem setV_randIn (x : Reg) (b : Byte) : (s.setV x b).randIn = s.randIn := rfl
@[simp] theorem setV_randDraws (x : Reg) (b : Byte) : (s.setV x b).randDraws = s.randDraws := rfl

/-! ### `setVs` -/

@[simp] theorem setVs_v (bytes : List Byte) :
    (s.setVs bytes).v = Vector.ofFn fun j : Fin 16 => bytes.getD j.val (s.getV j) := rfl
@[simp] theorem setVs_pc (bytes : List Byte) : (s.setVs bytes).pc = s.pc := by unfold setVs; rfl
@[simp] theorem setVs_i (bytes : List Byte) : (s.setVs bytes).i = s.i := by unfold setVs; rfl
@[simp] theorem setVs_sp (bytes : List Byte) : (s.setVs bytes).sp = s.sp := by unfold setVs; rfl
@[simp] theorem setVs_stack (bytes : List Byte) : (s.setVs bytes).stack = s.stack := by unfold setVs; rfl
@[simp] theorem setVs_dt (bytes : List Byte) : (s.setVs bytes).dt = s.dt := by unfold setVs; rfl
@[simp] theorem setVs_st (bytes : List Byte) : (s.setVs bytes).st = s.st := by unfold setVs; rfl
@[simp] theorem setVs_mem (bytes : List Byte) : (s.setVs bytes).mem = s.mem := by unfold setVs; rfl
@[simp] theorem setVs_fb (bytes : List Byte) : (s.setVs bytes).fb = s.fb := by unfold setVs; rfl
@[simp] theorem setVs_faulted (bytes : List Byte) : (s.setVs bytes).faulted = s.faulted := by unfold setVs; rfl
@[simp] theorem setVs_faultCode (bytes : List Byte) : (s.setVs bytes).faultCode = s.faultCode := by unfold setVs; rfl
@[simp] theorem setVs_faultPc (bytes : List Byte) : (s.setVs bytes).faultPc = s.faultPc := by unfold setVs; rfl
@[simp] theorem setVs_faultOpcode (bytes : List Byte) :
    (s.setVs bytes).faultOpcode = s.faultOpcode := by unfold setVs; rfl
@[simp] theorem setVs_faultInfo (bytes : List Byte) : (s.setVs bytes).faultInfo = s.faultInfo := by unfold setVs; rfl
@[simp] theorem setVs_fbUpdated (bytes : List Byte) : (s.setVs bytes).fbUpdated = s.fbUpdated := by unfold setVs; rfl
@[simp] theorem setVs_loadStatus (bytes : List Byte) :
    (s.setVs bytes).loadStatus = s.loadStatus := by unfold setVs; rfl
@[simp] theorem setVs_keys (bytes : List Byte) : (s.setVs bytes).keys = s.keys := by unfold setVs; rfl
@[simp] theorem setVs_randIn (bytes : List Byte) : (s.setVs bytes).randIn = s.randIn := by unfold setVs; rfl
@[simp] theorem setVs_randDraws (bytes : List Byte) : (s.setVs bytes).randDraws = s.randDraws := by unfold setVs; rfl

/-! ### `advancePc` -/

@[simp] theorem advancePc_v : (s.advancePc).v = s.v := rfl
@[simp] theorem advancePc_pc : (s.advancePc).pc = s.pc + 2 := rfl
@[simp] theorem advancePc_i : (s.advancePc).i = s.i := rfl
@[simp] theorem advancePc_sp : (s.advancePc).sp = s.sp := rfl
@[simp] theorem advancePc_stack : (s.advancePc).stack = s.stack := rfl
@[simp] theorem advancePc_dt : (s.advancePc).dt = s.dt := rfl
@[simp] theorem advancePc_st : (s.advancePc).st = s.st := rfl
@[simp] theorem advancePc_mem : (s.advancePc).mem = s.mem := rfl
@[simp] theorem advancePc_fb : (s.advancePc).fb = s.fb := rfl
@[simp] theorem advancePc_faulted : (s.advancePc).faulted = s.faulted := rfl
@[simp] theorem advancePc_faultCode : (s.advancePc).faultCode = s.faultCode := rfl
@[simp] theorem advancePc_faultPc : (s.advancePc).faultPc = s.faultPc := rfl
@[simp] theorem advancePc_faultOpcode : (s.advancePc).faultOpcode = s.faultOpcode := rfl
@[simp] theorem advancePc_faultInfo : (s.advancePc).faultInfo = s.faultInfo := rfl
@[simp] theorem advancePc_fbUpdated : (s.advancePc).fbUpdated = s.fbUpdated := rfl
@[simp] theorem advancePc_loadStatus : (s.advancePc).loadStatus = s.loadStatus := rfl
@[simp] theorem advancePc_keys : (s.advancePc).keys = s.keys := rfl
@[simp] theorem advancePc_randIn : (s.advancePc).randIn = s.randIn := rfl
@[simp] theorem advancePc_randDraws : (s.advancePc).randDraws = s.randDraws := rfl

/-! ### `jump` -/

@[simp] theorem jump_v (t : Word) : (s.jump t).v = s.v := rfl
@[simp] theorem jump_pc (t : Word) : (s.jump t).pc = t := rfl
@[simp] theorem jump_i (t : Word) : (s.jump t).i = s.i := rfl
@[simp] theorem jump_sp (t : Word) : (s.jump t).sp = s.sp := rfl
@[simp] theorem jump_stack (t : Word) : (s.jump t).stack = s.stack := rfl
@[simp] theorem jump_dt (t : Word) : (s.jump t).dt = s.dt := rfl
@[simp] theorem jump_st (t : Word) : (s.jump t).st = s.st := rfl
@[simp] theorem jump_mem (t : Word) : (s.jump t).mem = s.mem := rfl
@[simp] theorem jump_fb (t : Word) : (s.jump t).fb = s.fb := rfl
@[simp] theorem jump_faulted (t : Word) : (s.jump t).faulted = s.faulted := rfl
@[simp] theorem jump_faultCode (t : Word) : (s.jump t).faultCode = s.faultCode := rfl
@[simp] theorem jump_faultPc (t : Word) : (s.jump t).faultPc = s.faultPc := rfl
@[simp] theorem jump_faultOpcode (t : Word) : (s.jump t).faultOpcode = s.faultOpcode := rfl
@[simp] theorem jump_faultInfo (t : Word) : (s.jump t).faultInfo = s.faultInfo := rfl
@[simp] theorem jump_fbUpdated (t : Word) : (s.jump t).fbUpdated = s.fbUpdated := rfl
@[simp] theorem jump_loadStatus (t : Word) : (s.jump t).loadStatus = s.loadStatus := rfl
@[simp] theorem jump_keys (t : Word) : (s.jump t).keys = s.keys := rfl
@[simp] theorem jump_randIn (t : Word) : (s.jump t).randIn = s.randIn := rfl
@[simp] theorem jump_randDraws (t : Word) : (s.jump t).randDraws = s.randDraws := rfl

/-! ### `rewindPc` -/

@[simp] theorem rewindPc_v : (s.rewindPc).v = s.v := rfl
@[simp] theorem rewindPc_pc : (s.rewindPc).pc = s.pc - 2 := rfl
@[simp] theorem rewindPc_i : (s.rewindPc).i = s.i := rfl
@[simp] theorem rewindPc_sp : (s.rewindPc).sp = s.sp := rfl
@[simp] theorem rewindPc_stack : (s.rewindPc).stack = s.stack := rfl
@[simp] theorem rewindPc_dt : (s.rewindPc).dt = s.dt := rfl
@[simp] theorem rewindPc_st : (s.rewindPc).st = s.st := rfl
@[simp] theorem rewindPc_mem : (s.rewindPc).mem = s.mem := rfl
@[simp] theorem rewindPc_fb : (s.rewindPc).fb = s.fb := rfl
@[simp] theorem rewindPc_faulted : (s.rewindPc).faulted = s.faulted := rfl
@[simp] theorem rewindPc_faultCode : (s.rewindPc).faultCode = s.faultCode := rfl
@[simp] theorem rewindPc_faultPc : (s.rewindPc).faultPc = s.faultPc := rfl
@[simp] theorem rewindPc_faultOpcode : (s.rewindPc).faultOpcode = s.faultOpcode := rfl
@[simp] theorem rewindPc_faultInfo : (s.rewindPc).faultInfo = s.faultInfo := rfl
@[simp] theorem rewindPc_fbUpdated : (s.rewindPc).fbUpdated = s.fbUpdated := rfl
@[simp] theorem rewindPc_loadStatus : (s.rewindPc).loadStatus = s.loadStatus := rfl
@[simp] theorem rewindPc_keys : (s.rewindPc).keys = s.keys := rfl
@[simp] theorem rewindPc_randIn : (s.rewindPc).randIn = s.randIn := rfl
@[simp] theorem rewindPc_randDraws : (s.rewindPc).randDraws = s.randDraws := rfl

/-! ### `pushPc` -/

@[simp] theorem pushPc_v : (s.pushPc).v = s.v := rfl
@[simp] theorem pushPc_pc : (s.pushPc).pc = s.pc := rfl
@[simp] theorem pushPc_i : (s.pushPc).i = s.i := rfl
@[simp] theorem pushPc_sp : (s.pushPc).sp = s.sp + 1 := rfl
@[simp] theorem pushPc_stack : (s.pushPc).stack = s.stack.setIfInBounds s.sp.val s.pc := rfl
@[simp] theorem pushPc_dt : (s.pushPc).dt = s.dt := rfl
@[simp] theorem pushPc_st : (s.pushPc).st = s.st := rfl
@[simp] theorem pushPc_mem : (s.pushPc).mem = s.mem := rfl
@[simp] theorem pushPc_fb : (s.pushPc).fb = s.fb := rfl
@[simp] theorem pushPc_faulted : (s.pushPc).faulted = s.faulted := rfl
@[simp] theorem pushPc_faultCode : (s.pushPc).faultCode = s.faultCode := rfl
@[simp] theorem pushPc_faultPc : (s.pushPc).faultPc = s.faultPc := rfl
@[simp] theorem pushPc_faultOpcode : (s.pushPc).faultOpcode = s.faultOpcode := rfl
@[simp] theorem pushPc_faultInfo : (s.pushPc).faultInfo = s.faultInfo := rfl
@[simp] theorem pushPc_fbUpdated : (s.pushPc).fbUpdated = s.fbUpdated := rfl
@[simp] theorem pushPc_loadStatus : (s.pushPc).loadStatus = s.loadStatus := rfl
@[simp] theorem pushPc_keys : (s.pushPc).keys = s.keys := rfl
@[simp] theorem pushPc_randIn : (s.pushPc).randIn = s.randIn := rfl
@[simp] theorem pushPc_randDraws : (s.pushPc).randDraws = s.randDraws := rfl

/-! ### `popPc` -/

@[simp] theorem popPc_v : (s.popPc).v = s.v := rfl
@[simp] theorem popPc_pc : (s.popPc).pc = s.stack[Fin.ofNat 16 (s.sp.val - 1)] := rfl
@[simp] theorem popPc_i : (s.popPc).i = s.i := rfl
@[simp] theorem popPc_sp : (s.popPc).sp = s.sp - 1 := rfl
@[simp] theorem popPc_stack : (s.popPc).stack = s.stack := rfl
@[simp] theorem popPc_dt : (s.popPc).dt = s.dt := rfl
@[simp] theorem popPc_st : (s.popPc).st = s.st := rfl
@[simp] theorem popPc_mem : (s.popPc).mem = s.mem := rfl
@[simp] theorem popPc_fb : (s.popPc).fb = s.fb := rfl
@[simp] theorem popPc_faulted : (s.popPc).faulted = s.faulted := rfl
@[simp] theorem popPc_faultCode : (s.popPc).faultCode = s.faultCode := rfl
@[simp] theorem popPc_faultPc : (s.popPc).faultPc = s.faultPc := rfl
@[simp] theorem popPc_faultOpcode : (s.popPc).faultOpcode = s.faultOpcode := rfl
@[simp] theorem popPc_faultInfo : (s.popPc).faultInfo = s.faultInfo := rfl
@[simp] theorem popPc_fbUpdated : (s.popPc).fbUpdated = s.fbUpdated := rfl
@[simp] theorem popPc_loadStatus : (s.popPc).loadStatus = s.loadStatus := rfl
@[simp] theorem popPc_keys : (s.popPc).keys = s.keys := rfl
@[simp] theorem popPc_randIn : (s.popPc).randIn = s.randIn := rfl
@[simp] theorem popPc_randDraws : (s.popPc).randDraws = s.randDraws := rfl

/-! ### `recordFault` -/

@[simp] theorem recordFault_v (c : FaultCode) (p : Word) (op : Opcode) (info : Word) :
    (s.recordFault c p op info).v = s.v := rfl
@[simp] theorem recordFault_pc (c : FaultCode) (p : Word) (op : Opcode) (info : Word) :
    (s.recordFault c p op info).pc = s.pc := rfl
@[simp] theorem recordFault_i (c : FaultCode) (p : Word) (op : Opcode) (info : Word) :
    (s.recordFault c p op info).i = s.i := rfl
@[simp] theorem recordFault_sp (c : FaultCode) (p : Word) (op : Opcode) (info : Word) :
    (s.recordFault c p op info).sp = s.sp := rfl
@[simp] theorem recordFault_stack (c : FaultCode) (p : Word) (op : Opcode) (info : Word) :
    (s.recordFault c p op info).stack = s.stack := rfl
@[simp] theorem recordFault_dt (c : FaultCode) (p : Word) (op : Opcode) (info : Word) :
    (s.recordFault c p op info).dt = s.dt := rfl
@[simp] theorem recordFault_st (c : FaultCode) (p : Word) (op : Opcode) (info : Word) :
    (s.recordFault c p op info).st = s.st := rfl
@[simp] theorem recordFault_mem (c : FaultCode) (p : Word) (op : Opcode) (info : Word) :
    (s.recordFault c p op info).mem = s.mem := rfl
@[simp] theorem recordFault_fb (c : FaultCode) (p : Word) (op : Opcode) (info : Word) :
    (s.recordFault c p op info).fb = s.fb := rfl
@[simp] theorem recordFault_faulted (c : FaultCode) (p : Word) (op : Opcode) (info : Word) :
    (s.recordFault c p op info).faulted = true := rfl
@[simp] theorem recordFault_faultCode (c : FaultCode) (p : Word) (op : Opcode) (info : Word) :
    (s.recordFault c p op info).faultCode = c := rfl
@[simp] theorem recordFault_faultPc (c : FaultCode) (p : Word) (op : Opcode) (info : Word) :
    (s.recordFault c p op info).faultPc = p := rfl
@[simp] theorem recordFault_faultOpcode (c : FaultCode) (p : Word) (op : Opcode) (info : Word) :
    (s.recordFault c p op info).faultOpcode = op := rfl
@[simp] theorem recordFault_faultInfo (c : FaultCode) (p : Word) (op : Opcode) (info : Word) :
    (s.recordFault c p op info).faultInfo = info := rfl
@[simp] theorem recordFault_fbUpdated (c : FaultCode) (p : Word) (op : Opcode) (info : Word) :
    (s.recordFault c p op info).fbUpdated = false := rfl
@[simp] theorem recordFault_loadStatus (c : FaultCode) (p : Word) (op : Opcode) (info : Word) :
    (s.recordFault c p op info).loadStatus = s.loadStatus := rfl
@[simp] theorem recordFault_keys (c : FaultCode) (p : Word) (op : Opcode) (info : Word) :
    (s.recordFault c p op info).keys = s.keys := rfl
@[simp] theorem recordFault_randIn (c : FaultCode) (p : Word) (op : Opcode) (info : Word) :
    (s.recordFault c p op info).randIn = s.randIn := rfl
@[simp] theorem recordFault_randDraws (c : FaultCode) (p : Word) (op : Opcode) (info : Word) :
    (s.recordFault c p op info).randDraws = s.randDraws := rfl

/-! ### `raiseFault` -/

@[simp] theorem raiseFault_v (ins : Instr) (c : FaultCode) (info : Word) : (s.raiseFault ins c info).v = s.v := rfl
@[simp] theorem raiseFault_pc (ins : Instr) (c : FaultCode) (info : Word) :
    (s.raiseFault ins c info).pc = s.pc - 2 := rfl
@[simp] theorem raiseFault_i (ins : Instr) (c : FaultCode) (info : Word) : (s.raiseFault ins c info).i = s.i := rfl
@[simp] theorem raiseFault_sp (ins : Instr) (c : FaultCode) (info : Word) : (s.raiseFault ins c info).sp = s.sp := rfl
@[simp] theorem raiseFault_stack (ins : Instr) (c : FaultCode) (info : Word) :
    (s.raiseFault ins c info).stack = s.stack := rfl
@[simp] theorem raiseFault_dt (ins : Instr) (c : FaultCode) (info : Word) : (s.raiseFault ins c info).dt = s.dt := rfl
@[simp] theorem raiseFault_st (ins : Instr) (c : FaultCode) (info : Word) : (s.raiseFault ins c info).st = s.st := rfl
@[simp] theorem raiseFault_mem (ins : Instr) (c : FaultCode) (info : Word) :
    (s.raiseFault ins c info).mem = s.mem := rfl
@[simp] theorem raiseFault_fb (ins : Instr) (c : FaultCode) (info : Word) : (s.raiseFault ins c info).fb = s.fb := rfl
@[simp] theorem raiseFault_faulted (ins : Instr) (c : FaultCode) (info : Word) :
    (s.raiseFault ins c info).faulted = true := rfl
@[simp] theorem raiseFault_faultCode (ins : Instr) (c : FaultCode) (info : Word) :
    (s.raiseFault ins c info).faultCode = c := rfl
@[simp] theorem raiseFault_faultPc (ins : Instr) (c : FaultCode) (info : Word) :
    (s.raiseFault ins c info).faultPc = s.pc - 2 := rfl
@[simp] theorem raiseFault_faultOpcode (ins : Instr) (c : FaultCode) (info : Word) :
    (s.raiseFault ins c info).faultOpcode = encode ins := rfl
@[simp] theorem raiseFault_faultInfo (ins : Instr) (c : FaultCode) (info : Word) :
    (s.raiseFault ins c info).faultInfo = info := rfl
@[simp] theorem raiseFault_fbUpdated (ins : Instr) (c : FaultCode) (info : Word) :
    (s.raiseFault ins c info).fbUpdated = false := rfl
@[simp] theorem raiseFault_loadStatus (ins : Instr) (c : FaultCode) (info : Word) :
    (s.raiseFault ins c info).loadStatus = s.loadStatus := rfl
@[simp] theorem raiseFault_keys (ins : Instr) (c : FaultCode) (info : Word) :
    (s.raiseFault ins c info).keys = s.keys := rfl
@[simp] theorem raiseFault_randIn (ins : Instr) (c : FaultCode) (info : Word) :
    (s.raiseFault ins c info).randIn = s.randIn := rfl
@[simp] theorem raiseFault_randDraws (ins : Instr) (c : FaultCode) (info : Word) :
    (s.raiseFault ins c info).randDraws = s.randDraws := rfl

/-! ### `fetchFault` -/

@[simp] theorem fetchFault_v : (s.fetchFault).v = s.v := rfl
@[simp] theorem fetchFault_pc : (s.fetchFault).pc = s.pc := rfl
@[simp] theorem fetchFault_i : (s.fetchFault).i = s.i := rfl
@[simp] theorem fetchFault_sp : (s.fetchFault).sp = s.sp := rfl
@[simp] theorem fetchFault_stack : (s.fetchFault).stack = s.stack := rfl
@[simp] theorem fetchFault_dt : (s.fetchFault).dt = s.dt := rfl
@[simp] theorem fetchFault_st : (s.fetchFault).st = s.st := rfl
@[simp] theorem fetchFault_mem : (s.fetchFault).mem = s.mem := rfl
@[simp] theorem fetchFault_fb : (s.fetchFault).fb = s.fb := rfl
@[simp] theorem fetchFault_faulted : (s.fetchFault).faulted = true := rfl
@[simp] theorem fetchFault_faultCode : (s.fetchFault).faultCode = .fetchOutOfRange := rfl
@[simp] theorem fetchFault_faultPc : (s.fetchFault).faultPc = s.pc := rfl
@[simp] theorem fetchFault_faultOpcode : (s.fetchFault).faultOpcode = 0 := rfl
@[simp] theorem fetchFault_faultInfo : (s.fetchFault).faultInfo = s.pc := rfl
@[simp] theorem fetchFault_fbUpdated : (s.fetchFault).fbUpdated = false := rfl
@[simp] theorem fetchFault_loadStatus : (s.fetchFault).loadStatus = s.loadStatus := rfl
@[simp] theorem fetchFault_keys : (s.fetchFault).keys = s.keys := rfl
@[simp] theorem fetchFault_randIn : (s.fetchFault).randIn = s.randIn := rfl
@[simp] theorem fetchFault_randDraws : (s.fetchFault).randDraws = s.randDraws := rfl

/-! ### `finishStep` -/

@[simp] theorem finishStep_v (o : Option Instr) : (s.finishStep o).v = s.v := rfl
@[simp] theorem finishStep_pc (o : Option Instr) : (s.finishStep o).pc = s.pc := rfl
@[simp] theorem finishStep_i (o : Option Instr) : (s.finishStep o).i = s.i := rfl
@[simp] theorem finishStep_sp (o : Option Instr) : (s.finishStep o).sp = s.sp := rfl
@[simp] theorem finishStep_stack (o : Option Instr) : (s.finishStep o).stack = s.stack := rfl
@[simp] theorem finishStep_dt (o : Option Instr) : (s.finishStep o).dt = tick s.dt := rfl
@[simp] theorem finishStep_st (o : Option Instr) : (s.finishStep o).st = tick s.st := rfl
@[simp] theorem finishStep_mem (o : Option Instr) : (s.finishStep o).mem = s.mem := rfl
@[simp] theorem finishStep_fb (o : Option Instr) : (s.finishStep o).fb = s.fb := rfl
@[simp] theorem finishStep_faulted (o : Option Instr) : (s.finishStep o).faulted = s.faulted := rfl
@[simp] theorem finishStep_faultCode (o : Option Instr) : (s.finishStep o).faultCode = s.faultCode := rfl
@[simp] theorem finishStep_faultPc (o : Option Instr) : (s.finishStep o).faultPc = s.faultPc := rfl
@[simp] theorem finishStep_faultOpcode (o : Option Instr) : (s.finishStep o).faultOpcode = s.faultOpcode := rfl
@[simp] theorem finishStep_faultInfo (o : Option Instr) : (s.finishStep o).faultInfo = s.faultInfo := rfl
@[simp] theorem finishStep_fbUpdated (o : Option Instr) : (s.finishStep o).fbUpdated = o.any drawsScreen := rfl
@[simp] theorem finishStep_loadStatus (o : Option Instr) : (s.finishStep o).loadStatus = s.loadStatus := rfl
@[simp] theorem finishStep_keys (o : Option Instr) : (s.finishStep o).keys = s.keys := rfl
@[simp] theorem finishStep_randIn (o : Option Instr) :
    (s.finishStep o).randIn = if o.any consumesRand then none else s.randIn := rfl
@[simp] theorem finishStep_randDraws (o : Option Instr) :
    (s.finishStep o).randDraws = if o.any consumesRand then s.randDraws + 1 else s.randDraws := rfl

/-! ### `idleStep` -/

@[simp] theorem idleStep_v : (s.idleStep).v = s.v := rfl
@[simp] theorem idleStep_pc : (s.idleStep).pc = s.pc := rfl
@[simp] theorem idleStep_i : (s.idleStep).i = s.i := rfl
@[simp] theorem idleStep_sp : (s.idleStep).sp = s.sp := rfl
@[simp] theorem idleStep_stack : (s.idleStep).stack = s.stack := rfl
@[simp] theorem idleStep_dt : (s.idleStep).dt = s.dt := rfl
@[simp] theorem idleStep_st : (s.idleStep).st = s.st := rfl
@[simp] theorem idleStep_mem : (s.idleStep).mem = s.mem := rfl
@[simp] theorem idleStep_fb : (s.idleStep).fb = s.fb := rfl
@[simp] theorem idleStep_faulted : (s.idleStep).faulted = s.faulted := rfl
@[simp] theorem idleStep_faultCode : (s.idleStep).faultCode = s.faultCode := rfl
@[simp] theorem idleStep_faultPc : (s.idleStep).faultPc = s.faultPc := rfl
@[simp] theorem idleStep_faultOpcode : (s.idleStep).faultOpcode = s.faultOpcode := rfl
@[simp] theorem idleStep_faultInfo : (s.idleStep).faultInfo = s.faultInfo := rfl
@[simp] theorem idleStep_fbUpdated : (s.idleStep).fbUpdated = false := rfl
@[simp] theorem idleStep_loadStatus : (s.idleStep).loadStatus = s.loadStatus := rfl
@[simp] theorem idleStep_keys : (s.idleStep).keys = s.keys := rfl
@[simp] theorem idleStep_randIn : (s.idleStep).randIn = s.randIn := rfl
@[simp] theorem idleStep_randDraws : (s.idleStep).randDraws = s.randDraws := rfl

/-! ### `storeAtI` -/

@[simp] theorem storeAtI_v (bytes : List Byte) : (s.storeAtI bytes).v = s.v := rfl
@[simp] theorem storeAtI_pc (bytes : List Byte) : (s.storeAtI bytes).pc = s.pc := rfl
@[simp] theorem storeAtI_i (bytes : List Byte) : (s.storeAtI bytes).i = s.i := rfl
@[simp] theorem storeAtI_sp (bytes : List Byte) : (s.storeAtI bytes).sp = s.sp := rfl
@[simp] theorem storeAtI_stack (bytes : List Byte) : (s.storeAtI bytes).stack = s.stack := rfl
@[simp] theorem storeAtI_dt (bytes : List Byte) : (s.storeAtI bytes).dt = s.dt := rfl
@[simp] theorem storeAtI_st (bytes : List Byte) : (s.storeAtI bytes).st = s.st := rfl
@[simp] theorem storeAtI_mem (bytes : List Byte) :
    (s.storeAtI bytes).mem = s.mem.writeBytes (s.dataAddress 0) bytes := rfl
@[simp] theorem storeAtI_fb (bytes : List Byte) : (s.storeAtI bytes).fb = s.fb := rfl
@[simp] theorem storeAtI_faulted (bytes : List Byte) : (s.storeAtI bytes).faulted = s.faulted := rfl
@[simp] theorem storeAtI_faultCode (bytes : List Byte) : (s.storeAtI bytes).faultCode = s.faultCode := rfl
@[simp] theorem storeAtI_faultPc (bytes : List Byte) : (s.storeAtI bytes).faultPc = s.faultPc := rfl
@[simp] theorem storeAtI_faultOpcode (bytes : List Byte) : (s.storeAtI bytes).faultOpcode = s.faultOpcode := rfl
@[simp] theorem storeAtI_faultInfo (bytes : List Byte) : (s.storeAtI bytes).faultInfo = s.faultInfo := rfl
@[simp] theorem storeAtI_fbUpdated (bytes : List Byte) : (s.storeAtI bytes).fbUpdated = s.fbUpdated := rfl
@[simp] theorem storeAtI_loadStatus (bytes : List Byte) : (s.storeAtI bytes).loadStatus = s.loadStatus := rfl
@[simp] theorem storeAtI_keys (bytes : List Byte) : (s.storeAtI bytes).keys = s.keys := rfl
@[simp] theorem storeAtI_randIn (bytes : List Byte) : (s.storeAtI bytes).randIn = s.randIn := rfl
@[simp] theorem storeAtI_randDraws (bytes : List Byte) : (s.storeAtI bytes).randDraws = s.randDraws := rfl

/-! ### `present` -/

@[simp] theorem present_v (k : BitVec 16) (r : Byte) : (s.present k r).v = s.v := rfl
@[simp] theorem present_pc (k : BitVec 16) (r : Byte) : (s.present k r).pc = s.pc := rfl
@[simp] theorem present_i (k : BitVec 16) (r : Byte) : (s.present k r).i = s.i := rfl
@[simp] theorem present_sp (k : BitVec 16) (r : Byte) : (s.present k r).sp = s.sp := rfl
@[simp] theorem present_stack (k : BitVec 16) (r : Byte) : (s.present k r).stack = s.stack := rfl
@[simp] theorem present_dt (k : BitVec 16) (r : Byte) : (s.present k r).dt = s.dt := rfl
@[simp] theorem present_st (k : BitVec 16) (r : Byte) : (s.present k r).st = s.st := rfl
@[simp] theorem present_mem (k : BitVec 16) (r : Byte) : (s.present k r).mem = s.mem := rfl
@[simp] theorem present_fb (k : BitVec 16) (r : Byte) : (s.present k r).fb = s.fb := rfl
@[simp] theorem present_faulted (k : BitVec 16) (r : Byte) : (s.present k r).faulted = s.faulted := rfl
@[simp] theorem present_faultCode (k : BitVec 16) (r : Byte) : (s.present k r).faultCode = s.faultCode := rfl
@[simp] theorem present_faultPc (k : BitVec 16) (r : Byte) : (s.present k r).faultPc = s.faultPc := rfl
@[simp] theorem present_faultOpcode (k : BitVec 16) (r : Byte) : (s.present k r).faultOpcode = s.faultOpcode := rfl
@[simp] theorem present_faultInfo (k : BitVec 16) (r : Byte) : (s.present k r).faultInfo = s.faultInfo := rfl
@[simp] theorem present_fbUpdated (k : BitVec 16) (r : Byte) : (s.present k r).fbUpdated = s.fbUpdated := rfl
@[simp] theorem present_loadStatus (k : BitVec 16) (r : Byte) : (s.present k r).loadStatus = s.loadStatus := rfl
@[simp] theorem present_keys (k : BitVec 16) (r : Byte) : (s.present k r).keys = k := rfl
@[simp] theorem present_randIn (k : BitVec 16) (r : Byte) : (s.present k r).randIn = some r := rfl
@[simp] theorem present_randDraws (k : BitVec 16) (r : Byte) : (s.present k r).randDraws = s.randDraws := rfl

/-! ### `placeOpcode` -/

@[simp] theorem placeOpcode_v (op : Opcode) : (s.placeOpcode op).v = s.v := rfl
@[simp] theorem placeOpcode_pc (op : Opcode) : (s.placeOpcode op).pc = s.pc := rfl
@[simp] theorem placeOpcode_i (op : Opcode) : (s.placeOpcode op).i = s.i := rfl
@[simp] theorem placeOpcode_sp (op : Opcode) : (s.placeOpcode op).sp = s.sp := rfl
@[simp] theorem placeOpcode_stack (op : Opcode) : (s.placeOpcode op).stack = s.stack := rfl
@[simp] theorem placeOpcode_dt (op : Opcode) : (s.placeOpcode op).dt = s.dt := rfl
@[simp] theorem placeOpcode_st (op : Opcode) : (s.placeOpcode op).st = s.st := rfl
@[simp] theorem placeOpcode_mem (op : Opcode) :
    (s.placeOpcode op).mem = s.mem.writeBytes s.pc.toNat [opcodeHi op, opcodeLo op] := rfl
@[simp] theorem placeOpcode_fb (op : Opcode) : (s.placeOpcode op).fb = s.fb := rfl
@[simp] theorem placeOpcode_faulted (op : Opcode) : (s.placeOpcode op).faulted = s.faulted := rfl
@[simp] theorem placeOpcode_faultCode (op : Opcode) : (s.placeOpcode op).faultCode = s.faultCode := rfl
@[simp] theorem placeOpcode_faultPc (op : Opcode) : (s.placeOpcode op).faultPc = s.faultPc := rfl
@[simp] theorem placeOpcode_faultOpcode (op : Opcode) : (s.placeOpcode op).faultOpcode = s.faultOpcode := rfl
@[simp] theorem placeOpcode_faultInfo (op : Opcode) : (s.placeOpcode op).faultInfo = s.faultInfo := rfl
@[simp] theorem placeOpcode_fbUpdated (op : Opcode) : (s.placeOpcode op).fbUpdated = s.fbUpdated := rfl
@[simp] theorem placeOpcode_loadStatus (op : Opcode) : (s.placeOpcode op).loadStatus = s.loadStatus := rfl
@[simp] theorem placeOpcode_keys (op : Opcode) : (s.placeOpcode op).keys = s.keys := rfl
@[simp] theorem placeOpcode_randIn (op : Opcode) : (s.placeOpcode op).randIn = s.randIn := rfl
@[simp] theorem placeOpcode_randDraws (op : Opcode) : (s.placeOpcode op).randDraws = s.randDraws := rfl

/-! ### `skipIf` -/

@[simp] theorem skipIf_v (b : Bool) : (s.skipIf b).v = s.v := by cases b <;> rfl
@[simp] theorem skipIf_pc (b : Bool) : (s.skipIf b).pc = if b then s.pc + 2 else s.pc := by
  cases b <;> rfl
@[simp] theorem skipIf_i (b : Bool) : (s.skipIf b).i = s.i := by cases b <;> rfl
@[simp] theorem skipIf_sp (b : Bool) : (s.skipIf b).sp = s.sp := by cases b <;> rfl
@[simp] theorem skipIf_stack (b : Bool) : (s.skipIf b).stack = s.stack := by cases b <;> rfl
@[simp] theorem skipIf_dt (b : Bool) : (s.skipIf b).dt = s.dt := by cases b <;> rfl
@[simp] theorem skipIf_st (b : Bool) : (s.skipIf b).st = s.st := by cases b <;> rfl
@[simp] theorem skipIf_mem (b : Bool) : (s.skipIf b).mem = s.mem := by cases b <;> rfl
@[simp] theorem skipIf_fb (b : Bool) : (s.skipIf b).fb = s.fb := by cases b <;> rfl
@[simp] theorem skipIf_faulted (b : Bool) : (s.skipIf b).faulted = s.faulted := by cases b <;> rfl
@[simp] theorem skipIf_faultCode (b : Bool) : (s.skipIf b).faultCode = s.faultCode := by cases b <;> rfl
@[simp] theorem skipIf_faultPc (b : Bool) : (s.skipIf b).faultPc = s.faultPc := by cases b <;> rfl
@[simp] theorem skipIf_faultOpcode (b : Bool) : (s.skipIf b).faultOpcode = s.faultOpcode := by cases b <;> rfl
@[simp] theorem skipIf_faultInfo (b : Bool) : (s.skipIf b).faultInfo = s.faultInfo := by cases b <;> rfl
@[simp] theorem skipIf_fbUpdated (b : Bool) : (s.skipIf b).fbUpdated = s.fbUpdated := by cases b <;> rfl
@[simp] theorem skipIf_loadStatus (b : Bool) : (s.skipIf b).loadStatus = s.loadStatus := by cases b <;> rfl
@[simp] theorem skipIf_keys (b : Bool) : (s.skipIf b).keys = s.keys := by cases b <;> rfl
@[simp] theorem skipIf_randIn (b : Bool) : (s.skipIf b).randIn = s.randIn := by cases b <;> rfl
@[simp] theorem skipIf_randDraws (b : Bool) : (s.skipIf b).randDraws = s.randDraws := by cases b <;> rfl

/-! ### `hostReset`: every field of core state takes its reset value, the inputs stay -/

@[simp] theorem hostReset_v : s.hostReset.v = State.reset.v := rfl
@[simp] theorem hostReset_pc : s.hostReset.pc = State.reset.pc := rfl
@[simp] theorem hostReset_i : s.hostReset.i = State.reset.i := rfl
@[simp] theorem hostReset_sp : s.hostReset.sp = State.reset.sp := rfl
@[simp] theorem hostReset_stack : s.hostReset.stack = State.reset.stack := rfl
@[simp] theorem hostReset_dt : s.hostReset.dt = State.reset.dt := rfl
@[simp] theorem hostReset_st : s.hostReset.st = State.reset.st := rfl
@[simp] theorem hostReset_mem : s.hostReset.mem = State.reset.mem := rfl
@[simp] theorem hostReset_fb : s.hostReset.fb = State.reset.fb := rfl
@[simp] theorem hostReset_faulted : s.hostReset.faulted = State.reset.faulted := rfl
@[simp] theorem hostReset_faultCode : s.hostReset.faultCode = State.reset.faultCode := rfl
@[simp] theorem hostReset_faultPc : s.hostReset.faultPc = State.reset.faultPc := rfl
@[simp] theorem hostReset_faultOpcode : s.hostReset.faultOpcode = State.reset.faultOpcode := rfl
@[simp] theorem hostReset_faultInfo : s.hostReset.faultInfo = State.reset.faultInfo := rfl
@[simp] theorem hostReset_fbUpdated : s.hostReset.fbUpdated = State.reset.fbUpdated := rfl
@[simp] theorem hostReset_loadStatus : s.hostReset.loadStatus = State.reset.loadStatus := rfl
@[simp] theorem hostReset_keys : s.hostReset.keys = s.keys := rfl
@[simp] theorem hostReset_randIn : s.hostReset.randIn = s.randIn := rfl
@[simp] theorem hostReset_randDraws : s.hostReset.randDraws = s.randDraws := rfl

end Sys2Proof.Machine.State
end

