-- ==== Sys2Proof/Laws/Registers.lean ====
section
/-! SUPPORT. Reading a register after writing one, after writing a block, and after a result and its flag. -/

namespace Sys2Proof.Machine.State

variable (s : State)

@[simp] theorem getV_setV (x r : Reg) (b : Byte) : (s.setV x b).getV r = if r = x then b else s.getV r := by
  simp only [getV, setV, Vector.getElem_set]
  by_cases h : r = x
  · simp [h]
  · rw [if_neg (fun hv => h (Fin.ext hv.symm)), if_neg h]

theorem getV_setV_same (x : Reg) (b : Byte) : (s.setV x b).getV x = b := by simp

theorem getV_setV_other {x r : Reg} (b : Byte) (h : r ≠ x) : (s.setV x b).getV r = s.getV r := by simp [h]

/-- A block of bytes reaches exactly the registers below its length. -/
@[simp] theorem getV_setVs (bytes : List Byte) (r : Reg) :
    (s.setVs bytes).getV r = bytes.getD r.val (s.getV r) := by
  simp [getV, setVs]

/-- What `V[0]..V[x]` as a list holds. -/
theorem getVs_getElem? (x j : Reg) (h : j ≤ x) : (s.getVs x)[j.val]? = some (s.getV j) := by
  have hj : j.val < x.val + 1 := Nat.lt_succ_of_le h
  simp [getVs, getV, hj]

@[simp] theorem length_getVs (x : Reg) : (s.getVs x).length = x.val + 1 := by
  simp only [getVs, List.length_take, Vector.length_toList]
  omega

/-- The register file after a result and its flag: the flag is the last word on `VF` (R149). -/
@[simp] theorem getV_setVThenFlag (x r : Reg) (result flag : Byte) :
    (s.setVThenFlag x result flag).getV r =
      if r = Reg.vf then flag else if r = x then result else s.getV r := by
  simp only [setVThenFlag, getV_setV]

/-- Two register files that read alike are equal. -/
theorem v_ext {s t : State} (h : ∀ r, s.getV r = t.getV r) : s.v = t.v := by
  apply Vector.ext
  intro k hk
  exact h ⟨k, hk⟩

/-! A register reads the same wherever the register file is the same. -/

theorem getV_congr {s t : State} (h : s.v = t.v) (r : Reg) : s.getV r = t.getV r := by simp [getV, h]

@[simp] theorem getV_advancePc (r : Reg) : s.advancePc.getV r = s.getV r := rfl
@[simp] theorem getV_jump (t : Word) (r : Reg) : (s.jump t).getV r = s.getV r := rfl
@[simp] theorem getV_rewindPc (r : Reg) : s.rewindPc.getV r = s.getV r := rfl
@[simp] theorem getV_pushPc (r : Reg) : s.pushPc.getV r = s.getV r := rfl
@[simp] theorem getV_popPc (r : Reg) : s.popPc.getV r = s.getV r := rfl
@[simp] theorem getV_skipIf (b : Bool) (r : Reg) : (s.skipIf b).getV r = s.getV r := by cases b <;> rfl
@[simp] theorem getV_raiseFault (i : Instr) (c : FaultCode) (w : Word) (r : Reg) :
    (s.raiseFault i c w).getV r = s.getV r := rfl
@[simp] theorem getV_finishStep (o : Option Instr) (r : Reg) : (s.finishStep o).getV r = s.getV r := rfl
@[simp] theorem getV_storeAtI (bytes : List Byte) (r : Reg) : (s.storeAtI bytes).getV r = s.getV r := rfl

end Sys2Proof.Machine.State

namespace Sys2Proof.Machine

/-! ### Flag values (10_state.md R33) -/

@[simp] theorem flagByte_true : flagByte true = 1 := rfl
@[simp] theorem flagByte_false : flagByte false = 0 := rfl

theorem carryFlag_eq (a b : Byte) : carryFlag a b = if a.toNat + b.toNat > 255 then 1 else 0 := by
  simp [carryFlag, flagByte]

theorem greaterFlag_eq (a b : Byte) : greaterFlag a b = if a.toNat > b.toNat then 1 else 0 := by
  simp [greaterFlag, flagByte]

/-- Bit 0 of a byte is its remainder by 2. -/
theorem shrFlag_toNat (a : Byte) : (shrFlag a).toNat = a.toNat % 2 := by
  simp only [shrFlag, BitVec.getLsbD, Nat.testBit_zero]
  rcases Nat.mod_two_eq_zero_or_one a.toNat with h | h <;> simp [h, flagByte]

/-- Bit 7 of a byte is its quotient by 128. -/
theorem shlFlag_toNat (a : Byte) : (shlFlag a).toNat = a.toNat / 128 := by
  have h := a.isLt
  simp only [shlFlag, BitVec.getLsbD, Nat.testBit_eq_decide_div_mod_eq]
  by_cases h1 : a.toNat / 2 ^ 7 % 2 = 1
  · simp only [h1, decide_true, flagByte_true]; simp; omega
  · simp only [h1, decide_false, flagByte_false]; simp; omega

end Sys2Proof.Machine
end

