-- ==== Sys2Proof/Laws/Display.lean ====
section
/-! SUPPORT. The rasterizer in closed form: after drawing, every pixel of the grid is its old value XOR the
sprite bit that lies on it, and there was a collision exactly when such a bit lay on a pixel that was on. -/

namespace Sys2Proof.Machine

/-! ### Pixels (10_state.md R38) -/

@[simp] theorem pixel_clear (px py : Nat) : Framebuffer.clear.pixel px py = false := by
  by_cases h : py < 32
  · simp [Framebuffer.pixel, Framebuffer.clear, h]
  · simp [Framebuffer.pixel, Framebuffer.clear, h]

/-- Toggling a pixel of the grid inverts it and leaves the others. -/
theorem pixel_toggle (fb : Framebuffer) (x y px py : Nat) (hx : x < 64) (hy : y < 32) :
    (fb.toggle x y).pixel px py = (fb.pixel px py ^^ (decide (px = x) && decide (py = y))) := by
  simp only [Framebuffer.pixel, Framebuffer.toggle, Vector.getElem?_setIfInBounds]
  by_cases he : y = py
  · subst he
    have hd : (decide (x < 64) && decide (x = px)) = decide (px = x) := by simp [hx, eq_comm]
    rw [if_pos rfl, if_pos hy, Option.getD_some, BitVec.getLsbD_xor, BitVec.getLsbD_twoPow, hd]
    simp
  · simp [he, Ne.symm he]

/-- Two framebuffers whose pixels agree are equal. -/
theorem framebuffer_ext {fb fb' : Framebuffer}
    (h : ∀ px py, px < 64 → py < 32 → fb.pixel px py = fb'.pixel px py) : fb = fb' := by
  apply Vector.ext
  intro py hpy
  apply BitVec.eq_of_getLsbD_eq
  intro px hpx
  simpa [Framebuffer.pixel, hpy] using h px py hpx hpy

/-! ### One bit, one row, all rows -/

/-- The sprite bit that lies on a pixel: rows from `y0` down, eight columns from `x0`, bit 7 leftmost (R184). -/
def spriteBit (rows : List Byte) (x0 y0 px py : Nat) : Bool :=
  decide (y0 ≤ py) && (decide (x0 ≤ px) && decide (px < x0 + 8)) &&
    (rows.getD (py - y0) 0).getLsbD (7 - (px - x0))

theorem plotBit_pixel (bit : Bool) (x y px py : Nat) (d : Drawing) (hpx : px < 64) (hpy : py < 32) :
    (plotBit bit x y d).1.pixel px py = (d.1.pixel px py ^^ (bit && decide (px = x) && decide (py = y))) := by
  unfold plotBit
  by_cases h : bit = true ∧ x < Config.fbWidth ∧ y < Config.fbHeight
  · rw [if_pos h, pixel_toggle _ _ _ _ _ h.2.1 h.2.2, h.1]
    simp
  · rw [if_neg h]
    have : (bit && decide (px = x) && decide (py = y)) = false := by
      by_contra hc
      simp only [Bool.not_eq_false, Bool.and_eq_true, decide_eq_true_eq] at hc
      obtain ⟨⟨hb, rfl⟩, rfl⟩ := hc
      exact h ⟨hb, hpx, hpy⟩
    simp [this]

theorem plotBit_collision (bit : Bool) (x y : Nat) (d : Drawing) :
    (plotBit bit x y d).2 = true ↔
      d.2 = true ∨ (bit = true ∧ x < 64 ∧ y < 32 ∧ d.1.pixel x y = true) := by
  unfold plotBit
  by_cases h : bit = true ∧ x < Config.fbWidth ∧ y < Config.fbHeight
  · rw [if_pos h]
    have h1 : x < 64 := h.2.1
    have h2 : y < 32 := h.2.2
    simp [h.1, h1, h2]
  · rw [if_neg h]
    constructor
    · exact .inl
    · rintro (h1 | ⟨hb, hx, hy, -⟩)
      · exact h1
      · exact absurd ⟨hb, hx, hy⟩ h

/-- Plotting the columns `cs` of a row. -/
theorem plotColumns (row : Byte) (x0 y : Nat) : ∀ (cs : List Nat) (d : Drawing), cs.Nodup →
    (∀ px py, px < 64 → py < 32 →
      (cs.foldl (fun acc c => plotBit (row.getLsbD (7 - c)) (x0 + c) y acc) d).1.pixel px py =
        (d.1.pixel px py ^^
          cs.any fun c => row.getLsbD (7 - c) && decide (px = x0 + c) && decide (py = y))) ∧
    ((cs.foldl (fun acc c => plotBit (row.getLsbD (7 - c)) (x0 + c) y acc) d).2 = true ↔
      d.2 = true ∨ ∃ c ∈ cs, row.getLsbD (7 - c) = true ∧ x0 + c < 64 ∧ y < 32 ∧
        d.1.pixel (x0 + c) y = true) := by
  intro cs
  induction cs with
  | nil => intro d _; simp
  | cons c cs ih =>
    intro d hnd
    obtain ⟨hc, hnd⟩ := List.nodup_cons.mp hnd
    obtain ⟨ih1, ih2⟩ := ih (plotBit (row.getLsbD (7 - c)) (x0 + c) y d) hnd
    constructor
    · intro px py hpx hpy
      rw [List.foldl_cons, ih1 px py hpx hpy, plotBit_pixel _ _ _ _ _ _ hpx hpy, List.any_cons]
      by_cases hb : (row.getLsbD (7 - c) && decide (px = x0 + c) && decide (py = y)) = true
      · have hrest : (cs.any fun c => row.getLsbD (7 - c) && decide (px = x0 + c) && decide (py = y)) =
            false := by
          simp only [Bool.and_eq_true, decide_eq_true_eq] at hb
          simp only [List.any_eq_false, Bool.and_eq_true, decide_eq_true_eq, not_and]
          intro c' hc' _ hpx'
          have : c' = c := by omega
          exact absurd (this ▸ hc') hc
        rw [hrest, hb]
        simp
      · simp only [Bool.not_eq_true] at hb
        rw [hb]
        simp
    · rw [List.foldl_cons, ih2, plotBit_collision]
      constructor
      · rintro ((h | h) | ⟨c', hc', hb, hx, hy, hp⟩)
        · exact .inl h
        · exact .inr ⟨c, by simp, h⟩
        · rw [plotBit_pixel _ _ _ _ _ _ hx hy] at hp
          have hne : ¬ x0 + c' = x0 + c := fun e => hc (by rwa [show c = c' by omega])
          rw [decide_eq_false hne, Bool.and_false, Bool.false_and, Bool.xor_false] at hp
          exact .inr ⟨c', by simp [hc'], hb, hx, hy, hp⟩
      · rintro (h | ⟨c', hc', hb, hx, hy, hp⟩)
        · exact .inl (.inl h)
        · rcases List.mem_cons.mp hc' with rfl | hc'
          · exact .inl (.inr ⟨hb, hx, hy, hp⟩)
          · have hne : ¬ x0 + c' = x0 + c := fun e => hc (by rwa [show c = c' by omega])
            refine .inr ⟨c', hc', hb, hx, hy, ?_⟩
            rw [plotBit_pixel _ _ _ _ _ _ hx hy, decide_eq_false hne, Bool.and_false, Bool.false_and,
              Bool.xor_false]
            exact hp

theorem any_columns (row : Byte) (x0 y px py : Nat) :
    ((List.range 8).any fun c => row.getLsbD (7 - c) && decide (px = x0 + c) && decide (py = y)) =
      (decide (py = y) && (decide (x0 ≤ px) && decide (px < x0 + 8)) && row.getLsbD (7 - (px - x0))) := by
  rw [Bool.eq_iff_iff]
  simp only [List.any_eq_true, List.mem_range, Bool.and_eq_true, decide_eq_true_eq]
  constructor
  · rintro ⟨c, hc, ⟨hb, rfl⟩, rfl⟩
    refine ⟨⟨rfl, by omega, by omega⟩, ?_⟩
    rwa [show x0 + c - x0 = c by omega]
  · rintro ⟨⟨rfl, h1, h2⟩, hb⟩
    exact ⟨px - x0, by omega, ⟨hb, by omega⟩, rfl⟩

theorem drawRow_pixel (row : Byte) (x0 y px py : Nat) (d : Drawing) (hpx : px < 64) (hpy : py < 32) :
    (drawRow row x0 y d).1.pixel px py = (d.1.pixel px py ^^
      (decide (py = y) && (decide (x0 ≤ px) && decide (px < x0 + 8)) && row.getLsbD (7 - (px - x0)))) := by
  unfold drawRow
  rw [(plotColumns row x0 y (List.range 8) d List.nodup_range).1 px py hpx hpy, any_columns]

theorem drawRow_collision (row : Byte) (x0 y : Nat) (d : Drawing) :
    (drawRow row x0 y d).2 = true ↔ d.2 = true ∨ ∃ c, c < 8 ∧ row.getLsbD (7 - c) = true ∧
      x0 + c < 64 ∧ y < 32 ∧ d.1.pixel (x0 + c) y = true := by
  unfold drawRow
  rw [(plotColumns row x0 y (List.range 8) d List.nodup_range).2]
  simp only [List.mem_range]

theorem spriteBit_cons (row : Byte) (rows : List Byte) (x0 y0 px py : Nat) :
    spriteBit (row :: rows) x0 y0 px py =
      ((decide (py = y0) && (decide (x0 ≤ px) && decide (px < x0 + 8)) && row.getLsbD (7 - (px - x0))) ||
        spriteBit rows x0 (y0 + 1) px py) := by
  unfold spriteBit
  by_cases h : py = y0
  · subst h
    simp
  · by_cases h1 : y0 ≤ py
    · have h2 : py - y0 = (py - (y0 + 1)) + 1 := by omega
      have h3 : y0 + 1 ≤ py := by omega
      rw [h2, List.getD_cons_succ]
      simp [h, h1, h3]
    · have h3 : ¬ y0 + 1 ≤ py := by omega
      simp [h, h1, h3]

/-- Below the first row of a sprite there is none of it. -/
theorem spriteBit_above (rows : List Byte) (x0 y0 px py : Nat) (h : py < y0) :
    spriteBit rows x0 y0 px py = false := by
  have : ¬ y0 ≤ py := by omega
  simp [spriteBit, this]

/-- The pixels after drawing (R187, R188). -/
theorem drawRows_pixel (rows : List Byte) (x0 px py : Nat) (hpx : px < 64) (hpy : py < 32) :
    ∀ (y0 : Nat) (d : Drawing),
      (drawRows rows x0 y0 d).1.pixel px py = (d.1.pixel px py ^^ spriteBit rows x0 y0 px py) := by
  induction rows with
  | nil => intro y0 d; simp [drawRows, spriteBit]
  | cons row rows ih =>
    intro y0 d
    rw [drawRows, ih, drawRow_pixel _ _ _ _ _ _ hpx hpy, spriteBit_cons]
    by_cases h : py = y0
    · rw [spriteBit_above rows x0 (y0 + 1) px py (by omega)]
      simp
    · simp [h]

/-- The collision after drawing (R185, R188). -/
theorem drawRows_collision (rows : List Byte) (x0 : Nat) : ∀ (y0 : Nat) (d : Drawing),
    (drawRows rows x0 y0 d).2 = true ↔
      d.2 = true ∨ ∃ px py, px < 64 ∧ py < 32 ∧ spriteBit rows x0 y0 px py = true ∧
        d.1.pixel px py = true := by
  induction rows with
  | nil => intro y0 d; simp [drawRows, spriteBit]
  | cons row rows ih =>
    intro y0 d
    rw [drawRows, ih, drawRow_collision]
    constructor
    · rintro ((h | ⟨c, hc, hb, hx, hy, hp⟩) | ⟨px, py, hpx, hpy, hs, hp⟩)
      · exact .inl h
      · refine .inr ⟨x0 + c, y0, hx, hy, ?_, hp⟩
        rw [spriteBit_cons]
        have : x0 + c - x0 = c := by omega
        simp [this, hb, hc]
      · refine .inr ⟨px, py, hpx, hpy, by rw [spriteBit_cons, hs]; simp, ?_⟩
        rw [drawRow_pixel _ _ _ _ _ _ hpx hpy] at hp
        have hne : ¬ py = y0 := by
          intro e
          rw [spriteBit_above rows x0 (y0 + 1) px py (by omega)] at hs
          exact Bool.noConfusion hs
        simpa [hne] using hp
    · rintro (h | ⟨px, py, hpx, hpy, hs, hp⟩)
      · exact .inl (.inl h)
      · rw [spriteBit_cons, Bool.or_eq_true] at hs
        rcases hs with hs | hs
        · simp only [Bool.and_eq_true, decide_eq_true_eq] at hs
          obtain ⟨⟨rfl, h1, h2⟩, hb⟩ := hs
          exact .inl (.inr ⟨px - x0, by omega, hb, by omega, hpy, by rwa [show x0 + (px - x0) = px by omega]⟩)
        · refine .inr ⟨px, py, hpx, hpy, hs, ?_⟩
          rw [drawRow_pixel _ _ _ _ _ _ hpx hpy]
          have hne : ¬ py = y0 := by
            intro e
            rw [spriteBit_above rows x0 (y0 + 1) px py (by omega)] at hs
            exact Bool.noConfusion hs
          simpa [hne] using hp

end Sys2Proof.Machine
end

