-- ==== Sys2Proof/Laws/Encoding.lean ====
section
/-! SUPPORT. The fields of an opcode laid out in one of the formats of 30_encoding.md R81, and an opcode as its two
bytes (20_memory.md R64). -/

namespace Sys2Proof

@[simp] theorem regField_toFin (r : Reg) : (regField r).toFin = r := rfl
@[simp] theorem regField_of_toFin (b : BitVec 4) : regField b.toFin = b := rfl

theorem toNat_formatNNN (g : BitVec 4) (nnn : Addr12) :
    (formatNNN g nnn).toNat = g.toNat * 4096 + nnn.toNat := by
  have := nnn.isLt
  simp only [formatNNN, BitVec.toNat_append]
  rw [← Nat.shiftLeft_add_eq_or_of_lt this, Nat.shiftLeft_eq]

theorem toNat_formatXKK (g : BitVec 4) (x : Reg) (kk : Byte) :
    (formatXKK g x kk).toNat = g.toNat * 4096 + x.val * 256 + kk.toNat := by
  have h1 := kk.isLt
  have h2 := (regField x).isLt
  have h3 : (regField x).toNat = x.val := rfl
  simp only [formatXKK, BitVec.toNat_append]
  rw [← Nat.shiftLeft_add_eq_or_of_lt h1, ← Nat.shiftLeft_add_eq_or_of_lt h2, Nat.shiftLeft_eq,
    Nat.shiftLeft_eq, h3]
  omega

theorem toNat_formatXYN (g : BitVec 4) (x y : Reg) (n : Nibble) :
    (formatXYN g x y n).toNat = g.toNat * 4096 + x.val * 256 + y.val * 16 + n.toNat := by
  have h1 := n.isLt
  have h2 := (regField x).isLt
  have h3 := (regField y).isLt
  have h4 : (regField x).toNat = x.val := rfl
  have h5 : (regField y).toNat = y.val := rfl
  simp only [formatXYN, BitVec.toNat_append]
  rw [← Nat.shiftLeft_add_eq_or_of_lt h1, ← Nat.shiftLeft_add_eq_or_of_lt h3,
    ← Nat.shiftLeft_add_eq_or_of_lt h2, Nat.shiftLeft_eq, Nat.shiftLeft_eq, Nat.shiftLeft_eq, h4, h5]
  omega

/-! ### The fields as numbers (00_scope.md R11) -/

theorem opGroup_toNat (op : Opcode) : (opGroup op).toNat = op.toNat / 4096 := by
  have := op.isLt
  simp only [opGroup, BitVec.extractLsb'_toNat, Nat.shiftRight_eq_div_pow]
  omega

theorem opX_val (op : Opcode) : (opX op).val = op.toNat / 256 % 16 := by
  show (BitVec.extractLsb' 8 4 op).toNat = _
  simp only [BitVec.extractLsb'_toNat, Nat.shiftRight_eq_div_pow]

theorem opY_val (op : Opcode) : (opY op).val = op.toNat / 16 % 16 := by
  show (BitVec.extractLsb' 4 4 op).toNat = _
  simp only [BitVec.extractLsb'_toNat, Nat.shiftRight_eq_div_pow]

theorem opN_toNat (op : Opcode) : (opN op).toNat = op.toNat % 16 := by
  simp only [opN, BitVec.extractLsb'_toNat, Nat.shiftRight_eq_div_pow, Nat.pow_zero, Nat.div_one]

theorem opKk_toNat (op : Opcode) : (opKk op).toNat = op.toNat % 256 := by
  simp only [opKk, BitVec.extractLsb'_toNat, Nat.shiftRight_eq_div_pow, Nat.pow_zero, Nat.div_one]

theorem opNnn_toNat (op : Opcode) : (opNnn op).toNat = op.toNat % 4096 := by
  simp only [opNnn, BitVec.extractLsb'_toNat, Nat.shiftRight_eq_div_pow, Nat.pow_zero, Nat.div_one]

/-! ### The fields of each format -/

section
variable (g : BitVec 4) (x y : Reg) (n : Nibble) (kk : Byte) (nnn : Addr12)

@[simp] theorem opGroup_formatNNN : opGroup (formatNNN g nnn) = g := by
  have := nnn.isLt
  apply BitVec.eq_of_toNat_eq; rw [opGroup_toNat, toNat_formatNNN]; omega

@[simp] theorem opNnn_formatNNN : opNnn (formatNNN g nnn) = nnn := by
  have := nnn.isLt
  apply BitVec.eq_of_toNat_eq; rw [opNnn_toNat, toNat_formatNNN]; omega

@[simp] theorem opGroup_formatXKK : opGroup (formatXKK g x kk) = g := by
  have := kk.isLt
  have := x.isLt
  apply BitVec.eq_of_toNat_eq; rw [opGroup_toNat, toNat_formatXKK]; omega

@[simp] theorem opX_formatXKK : opX (formatXKK g x kk) = x := by
  have := kk.isLt
  have := x.isLt
  apply Fin.ext; rw [opX_val, toNat_formatXKK]; omega

@[simp] theorem opKk_formatXKK : opKk (formatXKK g x kk) = kk := by
  have := kk.isLt
  have := x.isLt
  apply BitVec.eq_of_toNat_eq; rw [opKk_toNat, toNat_formatXKK]; omega

@[simp] theorem opGroup_formatXYN : opGroup (formatXYN g x y n) = g := by
  have := n.isLt
  have := x.isLt
  have := y.isLt
  apply BitVec.eq_of_toNat_eq; rw [opGroup_toNat, toNat_formatXYN]; omega

@[simp] theorem opX_formatXYN : opX (formatXYN g x y n) = x := by
  have := n.isLt
  have := x.isLt
  have := y.isLt
  apply Fin.ext; rw [opX_val, toNat_formatXYN]; omega

@[simp] theorem opY_formatXYN : opY (formatXYN g x y n) = y := by
  have := n.isLt
  have := x.isLt
  have := y.isLt
  apply Fin.ext; rw [opY_val, toNat_formatXYN]; omega

@[simp] theorem opN_formatXYN : opN (formatXYN g x y n) = n := by
  have := n.isLt
  have := x.isLt
  have := y.isLt
  apply BitVec.eq_of_toNat_eq; rw [opN_toNat, toNat_formatXYN]; omega

end

/-! ### An opcode put together from its fields -/

theorem formatNNN_fields (op : Opcode) : formatNNN (opGroup op) (opNnn op) = op := by
  have := op.isLt
  apply BitVec.eq_of_toNat_eq
  rw [toNat_formatNNN, opGroup_toNat, opNnn_toNat]; omega

theorem formatXKK_fields (op : Opcode) : formatXKK (opGroup op) (opX op) (opKk op) = op := by
  have := op.isLt
  apply BitVec.eq_of_toNat_eq
  rw [toNat_formatXKK, opGroup_toNat, opX_val, opKk_toNat]; omega

theorem formatXYN_fields (op : Opcode) : formatXYN (opGroup op) (opX op) (opY op) (opN op) = op := by
  have := op.isLt
  apply BitVec.eq_of_toNat_eq
  rw [toNat_formatXYN, opGroup_toNat, opX_val, opY_val, opN_toNat]; omega

/-! ### What the masks of R88 keep of an opcode -/

theorem and_maskF000 (op : Opcode) : op &&& 0xF000#16 = formatNNN (opGroup op) 0 := by
  apply BitVec.eq_of_getLsbD_eq
  intro k hk
  simp only [formatNNN, opGroup, BitVec.getLsbD_and, BitVec.getLsbD_append, BitVec.getLsbD_extractLsb']
  interval_cases k <;> simp

theorem and_maskF00F (op : Opcode) : op &&& 0xF00F#16 = formatXYN (opGroup op) 0 0 (opN op) := by
  apply BitVec.eq_of_getLsbD_eq
  intro k hk
  simp only [formatXYN, regField, opGroup, opN, BitVec.getLsbD_and, BitVec.getLsbD_append,
    BitVec.getLsbD_extractLsb']
  interval_cases k <;> simp

theorem and_maskF0FF (op : Opcode) : op &&& 0xF0FF#16 = formatXKK (opGroup op) 0 (opKk op) := by
  apply BitVec.eq_of_getLsbD_eq
  intro k hk
  simp only [formatXKK, regField, opGroup, opKk, BitVec.getLsbD_and, BitVec.getLsbD_append,
    BitVec.getLsbD_extractLsb']
  interval_cases k <;> simp

/-! ### An opcode as its two bytes -/

theorem opcodeOfBytes_toNat (hi lo : Byte) : (opcodeOfBytes hi lo).toNat = hi.toNat * 256 + lo.toNat := by
  have := lo.isLt
  simp only [opcodeOfBytes, BitVec.toNat_append]
  rw [← Nat.shiftLeft_add_eq_or_of_lt this, Nat.shiftLeft_eq]

@[simp] theorem opcodeOfBytes_hi_lo (op : Opcode) : opcodeOfBytes (opcodeHi op) (opcodeLo op) = op := by
  have := op.isLt
  apply BitVec.eq_of_toNat_eq
  rw [opcodeOfBytes_toNat]
  simp only [opcodeHi, opcodeLo, BitVec.extractLsb'_toNat, Nat.shiftRight_eq_div_pow]
  omega

/-- The table's word `w` decodes as the opcode it is. -/
theorem decodeTableWord_eq (w : Nat) (h : w < 65536) :
    decodeTableWord 16 w = (decodeOpcode (BitVec.ofNat 16 w)).toOption := by
  have hw : w % 2 ^ 16 = w := Nat.mod_eq_of_lt h
  simp only [decodeTableWord, decode, opcodeOfBytes_hi_lo, hw]
  cases decodeOpcode (BitVec.ofNat 16 w) <;> rfl

end Sys2Proof
end

