-- ==== Sys2Proof/Laws/Memory.lean ====
section
/-! SUPPORT. Memory: a read after a write, runs of bytes, and the canonical form, which every operation keeps. -/

namespace Sys2Proof.Machine.Memory

variable (m : Memory) (a a' : Nat) (b : Byte)

/-! ### One byte (20_memory.md R69) -/

theorem read_unlist_same : (m.unlist a).read a = resetByte a := by
  induction m with
  | nil => rfl
  | cons cell rest ih =>
    by_cases h : cell.1 = a
    · simpa [unlist, h] using ih
    · simpa [unlist, h, read] using ih

theorem read_unlist_other (h : a' ≠ a) : (m.unlist a).read a' = m.read a' := by
  induction m with
  | nil => rfl
  | cons cell rest ih =>
    by_cases hc : cell.1 = a
    · have ih' : Memory.read (List.filter (fun cell => cell.1 != a) rest) a' = Memory.read rest a' := ih
      have ha : a ≠ a' := Ne.symm h
      simp [unlist, hc, read, ha, ih']
    · have ih' : Memory.read (List.filter (fun cell => cell.1 != a) rest) a' = Memory.read rest a' := ih
      simp [unlist, hc, read, ih']

theorem read_enlist_other (h : a' ≠ a) : (enlist a b m).read a' = m.read a' := by
  induction m with
  | nil => simp [enlist, read, Ne.symm h]
  | cons cell rest ih =>
    by_cases hc : a < cell.1
    · simp [enlist, hc, read, Ne.symm h]
    · simp [enlist, hc, read, ih]

theorem read_enlist_same (h : ∀ c ∈ m, c.1 ≠ a) : (enlist a b m).read a = b := by
  induction m with
  | nil => simp [enlist, read]
  | cons cell rest ih =>
    by_cases hc : a < cell.1
    · simp [enlist, hc, read]
    · have h1 := h cell (by simp)
      simp [enlist, hc, read, h1, ih fun c hm => h c (by simp [hm])]

theorem not_listed_unlist : ∀ c ∈ m.unlist a, c.1 ≠ a := by
  intro c hc
  simp only [unlist, List.mem_filter, bne_iff_ne, ne_eq] at hc
  exact hc.2

/-- "A read returns the last value written to the byte", and no write reaches another byte. -/
@[simp] theorem read_write : (m.write a b).read a' = if a' = a then b else m.read a' := by
  unfold write
  by_cases hb : b = resetByte a
  · by_cases h : a' = a
    · simp [h, hb, read_unlist_same]
    · simp [h, hb, read_unlist_other m a a' h]
  · by_cases h : a' = a
    · subst h
      simp [hb, read_enlist_same _ _ _ (not_listed_unlist m a')]
    · simp [h, hb, read_enlist_other _ _ _ _ h, read_unlist_other m a a' h]

@[simp] theorem read_nil : Memory.read [] a = resetByte a := rfl

/-! ### Runs of bytes (20_memory.md R68) -/

/-- A run of writes reaches exactly its own addresses. -/
theorem read_writeBytes (bytes : List Byte) : ∀ m : Memory, ∀ a : Nat,
    (m.writeBytes a bytes).read a' =
      if a ≤ a' ∧ a' < a + bytes.length then bytes.getD (a' - a) 0 else m.read a' := by
  induction bytes with
  | nil =>
    intro m a
    simp [writeBytes]
  | cons b bs ih =>
    intro m a
    rw [writeBytes, ih]
    by_cases h : a' = a
    · subst h
      simp
    · by_cases h1 : a + 1 ≤ a' ∧ a' < a + 1 + bs.length
      · have h2 : a ≤ a' ∧ a' < a + (b :: bs).length := by simp only [List.length_cons]; omega
        have h3 : a' - a = (a' - (a + 1)) + 1 := by omega
        rw [if_pos h1, if_pos h2, h3, List.getD_cons_succ]
      · have h2 : ¬ (a ≤ a' ∧ a' < a + (b :: bs).length) := by simp only [List.length_cons]; omega
        rw [if_neg h1, if_neg h2, read_write, if_neg h]

theorem read_writeBytes_inside (bytes : List Byte) (k : Nat) (h : k < bytes.length) :
    (m.writeBytes a bytes).read (a + k) = bytes.getD k 0 := by
  rw [read_writeBytes, if_pos ⟨by omega, by omega⟩]
  congr 1
  omega

theorem read_writeBytes_outside (bytes : List Byte) (h : ¬ (a ≤ a' ∧ a' < a + bytes.length)) :
    (m.writeBytes a bytes).read a' = m.read a' := by
  rw [read_writeBytes, if_neg h]

@[simp] theorem length_readBytes (count : Nat) : (m.readBytes a count).length = count := by
  induction count generalizing a with
  | zero => rfl
  | succ n ih => simp [readBytes, ih]

theorem readBytes_getElem? (count : Nat) : ∀ a k : Nat, k < count →
    (m.readBytes a count)[k]? = some (m.read (a + k)) := by
  induction count with
  | zero => intro a k h; omega
  | succ n ih =>
    intro a k h
    cases k with
    | zero => simp [readBytes]
    | succ k =>
      simp only [readBytes, List.getElem?_cons_succ]
      rw [ih (a + 1) k (by omega)]
      congr 2
      omega

/-- The run read at rising addresses, by position; past its end the given default. -/
theorem readBytes_getD (count k : Nat) (d : Byte) :
    (m.readBytes a count).getD k d = if k < count then m.read (a + k) else d := by
  rw [List.getD_eq_getElem?_getD]
  by_cases h : k < count
  · rw [readBytes_getElem? m count a k h, if_pos h, Option.getD_some]
  · rw [List.getElem?_eq_none (by simp; omega), if_neg h, Option.getD_none]

/-! ### The canonical form -/

theorem wf_nil : Memory.wf [] := by simp [wf]

theorem wf_unlist (h : m.wf) : (m.unlist a).wf := by
  refine ⟨h.1.filter _, fun c hc => h.2 c ?_⟩
  exact (List.mem_filter.mp hc).1

theorem mem_enlist (c : Host.Cell) : c ∈ enlist a b m ↔ c = (a, b) ∨ c ∈ m := by
  induction m with
  | nil => simp [enlist]
  | cons cell rest ih =>
    by_cases h : a < cell.1
    · simp [enlist, h]
    · simp only [enlist, h, if_false, List.mem_cons, ih]
      tauto

theorem pairwise_enlist (hp : m.Pairwise fun c d => c.1 < d.1) (h : ∀ c ∈ m, c.1 ≠ a) :
    (enlist a b m).Pairwise fun c d => c.1 < d.1 := by
  induction m with
  | nil => simp [enlist]
  | cons cell rest ih =>
    obtain ⟨hc, hr⟩ := List.pairwise_cons.mp hp
    by_cases hlt : a < cell.1
    · simp only [enlist, hlt, if_true, List.pairwise_cons]
      refine ⟨fun d hd => ?_, hc, hr⟩
      rcases List.mem_cons.mp hd with rfl | hd
      · exact hlt
      · exact Nat.lt_trans hlt (hc d hd)
    · have hne := h cell (by simp)
      simp only [enlist, hlt, if_false, List.pairwise_cons]
      refine ⟨fun d hd => ?_, ih hr fun c hm => h c (by simp [hm])⟩
      rcases (mem_enlist rest a b d).mp hd with rfl | hd
      · simp only; omega
      · exact hc d hd

/-- A write inside the address space keeps the canonical form. -/
theorem wf_write (ha : a < Config.memSize) (h : m.wf) : (m.write a b).wf := by
  unfold write
  by_cases hb : b = resetByte a
  · simpa [hb] using wf_unlist m a h
  · have hu := wf_unlist m a h
    rw [if_neg hb]
    refine ⟨pairwise_enlist _ a b hu.1 (not_listed_unlist m a), fun c hc => ?_⟩
    rcases (mem_enlist _ a b c).mp hc with rfl | hc
    · exact ⟨ha, hb⟩
    · exact hu.2 c hc

/-- A run of writes inside the address space keeps the canonical form. -/
theorem wf_writeBytes (bytes : List Byte) : ∀ m : Memory, ∀ a : Nat,
    a + bytes.length ≤ Config.memSize → m.wf → (m.writeBytes a bytes).wf := by
  induction bytes with
  | nil => intro m a _ h; exact h
  | cons b bs ih =>
    intro m a hl h
    simp only [List.length_cons] at hl
    exact ih _ _ (by omega) (wf_write m a b (by omega) h)

end Sys2Proof.Machine.Memory
end

