-- ==== Sys2Proof/Laws/Ops.lean ====
section
/-! SUPPORT. One lemma for each shared operation that says everything it can do: timers, the range check, the call
stack, decimal digits, the key scan, the fetch, `load`. -/

namespace Sys2Proof.Machine

/-! ### Timers (40_cycle.md R108) -/

/-- A timer goes down by one and stays at 0. -/
theorem tick_toNat (t : Byte) : (tick t).toNat = t.toNat - 1 := by
  unfold tick
  by_cases h : t = 0
  · rw [if_pos h, h]
    rfl
  · have h0 : t.toNat ≠ 0 := fun e => h (BitVec.eq_of_toNat_eq (by simpa using e))
    have hlt := t.isLt
    have h1 : (1 : Byte).toNat = 1 := rfl
    rw [if_neg h, BitVec.toNat_sub, h1]
    omega

/-! ### The range check (20_memory.md R67) -/

theorem find?_range_add (base count : Nat) :
    (((List.range count).map fun k => base + k).find? fun a => decide (a > 0xFFF)) =
      if base + count ≤ 4096 ∨ count = 0 then none else some (max base 4096) := by
  induction count with
  | zero => simp
  | succ n ih =>
    rw [List.range_succ, List.map_append, List.find?_append, ih]
    by_cases h : base + (n + 1) ≤ 4096
    · have h1 : base + n ≤ 4096 ∨ n = 0 := by omega
      have h2 : ¬ base + n > 0xFFF := by omega
      simp [h, h1, h2]
    · by_cases h1 : base + n ≤ 4096 ∨ n = 0
      · have h2 : base + n > 0xFFF := by omega
        have h3 : max base 4096 = base + n := by omega
        simp [h, h1, h2, h3]
      · simp [h, h1]

/-- The first address above 0xFFF among `count` consecutive ones: none when they all fit (or there are none),
otherwise `base` itself or 0x1000, whichever is higher. -/
theorem firstBadAddress_eq (base count : Nat) :
    firstBadAddress base count = if base + count ≤ 4096 ∨ count = 0 then none else some (max base 4096) :=
  find?_range_add base count

theorem withDataRange_inside (s : State) (i : Instr) {count : Nat} (done : State)
    (h : s.i.toNat + count ≤ 4096 ∨ count = 0) : s.withDataRange i count done = done := by
  simp [State.withDataRange, firstBadAddress_eq, h]

theorem withDataRange_outside (s : State) (i : Instr) {count : Nat} (done : State)
    (h : ¬ (s.i.toNat + count ≤ 4096 ∨ count = 0)) :
    s.withDataRange i count done =
      s.raiseFault i .dataOutOfRange (BitVec.ofNat 16 (max s.i.toNat 4096)) := by
  simp [State.withDataRange, firstBadAddress_eq, h]

/-- The check either passes to `done` or raises the one data fault. -/
theorem withDataRange_cases (s : State) (i : Instr) (count : Nat) (done : State) :
    s.withDataRange i count done = done ∨
      ∃ info, s.withDataRange i count done = s.raiseFault i .dataOutOfRange info := by
  by_cases h : s.i.toNat + count ≤ 4096 ∨ count = 0
  · exact .inl (withDataRange_inside s i done h)
  · exact .inr ⟨_, withDataRange_outside s i done h⟩

@[simp] theorem State.dataAddress_zero (s : State) : s.dataAddress 0 = s.i.toNat := rfl

/-! ### The call stack (10_state.md R29, R30) -/

section
variable (s : State)

theorem pushPc_sp_val (h : s.sp.val < 16) : (s.pushPc.sp).val = s.sp.val + 1 := by
  simp only [State.pushPc_sp, Fin.val_add]
  have : (1 : Fin 17).val = 1 := rfl
  omega

theorem popPc_sp_val (h : 0 < s.sp.val) : (s.popPc.sp).val = s.sp.val - 1 := by
  have hlt := s.sp.isLt
  simp only [State.popPc_sp, Fin.sub_def]
  have : (1 : Fin 17).val = 1 := rfl
  show (17 - (1 : Fin 17).val + s.sp.val) % 17 = _
  omega

/-- A push writes entry `SP` and no other. -/
theorem pushPc_stack_getElem (j : Nat) (hj : j < 16) :
    s.pushPc.stack[j] = if j = s.sp.val then s.pc else s.stack[j] := by
  simp only [State.pushPc_stack, Vector.getElem_setIfInBounds, eq_comm]

/-- A pop takes the entry below `SP`. -/
theorem popPc_pc_eq (j : Nat) (hj : j < 16) (h : s.sp.val = j + 1) : s.popPc.pc = s.stack[j] := by
  have hv : (Fin.ofNat 16 (s.sp.val - 1)).val = j := by
    simp only [Fin.ofNat]
    omega
  show s.stack[(Fin.ofNat 16 (s.sp.val - 1)).val] = s.stack[j]
  simp only [hv]

end

/-! ### Decimal digits (43_memory_block.md R170) -/

/-- The three digits are decimal digits, and they are those of the value. -/
theorem bcdDigits_spec (v : Byte) : ∃ h t o : Byte, bcdDigits v = [h, t, o] ∧
    h.toNat = v.toNat / 100 ∧ t.toNat = v.toNat / 10 % 10 ∧ o.toNat = v.toNat % 10 := by
  have hv := v.isLt
  refine ⟨_, _, _, rfl, ?_, ?_, ?_⟩ <;> simp only [BitVec.toNat_ofNat] <;> omega

/-! ### The key scan (45_keypad_timer.md R203) -/

theorem firstPressed_none_iff (s : State) : s.firstPressed = none ↔ ∀ k < 16, s.keyPressed k = false := by
  simp [State.firstPressed, List.find?_eq_none]

/-- The scan finds the least pressed key. -/
theorem firstPressed_some_iff (s : State) (k : Nat) :
    s.firstPressed = some k ↔
      k < 16 ∧ s.keyPressed k = true ∧ ∀ j < k, s.keyPressed j = false := by
  simp only [State.firstPressed, List.find?_range_eq_some]
  simp
  tauto

/-! ### The fetch (40_cycle.md R101) -/

theorem fetch_inside (s : State) (h : s.pc.toNat ≤ 0xFFE) : s.fetch = some s.opcodeAtPc := by
  simp only [State.fetch]
  rw [if_neg (by omega)]

theorem fetch_outside (s : State) (h : s.pc.toNat > 0xFFE) : s.fetch = none := by
  simp [State.fetch, h]

/-- A state made ready to fetch fetches. -/
theorem readyToFetch_pc_le (s : State) : s.readyToFetch.pc.toNat ≤ 0xFFE := by
  unfold State.readyToFetch
  simp only
  generalize (if s.faulted = true then _ else s) = u
  by_cases h : u.pc.toNat > 0xFFE
  · rw [if_pos h]
    show (0x200#16).toNat ≤ 0xFFE
    decide
  · rw [if_neg h]
    omega

theorem readyToFetch_faulted (s : State) : s.readyToFetch.faulted = false := by
  unfold State.readyToFetch
  simp only
  have h : (if s.faulted = true then
      { s with faulted := false, faultCode := .none, faultPc := 0, faultOpcode := 0, faultInfo := 0 }
    else s).faulted = false := by
    by_cases h : s.faulted = true
    · rw [if_pos h]
    · rw [if_neg h]
      simpa using h
  generalize (if s.faulted = true then _ else s) = u at h
  split <;> exact h

/-- A state that can fetch is ready as it is. -/
theorem readyToFetch_of_ready {s : State} (hf : s.faulted = false) (hp : s.pc.toNat ≤ 0xFFE) :
    s.readyToFetch = s := by
  unfold State.readyToFetch
  have hn : ¬ s.pc.toNat > 0xFFE := by omega
  simp only [hf, Bool.false_eq_true, if_false]
  rw [if_neg hn]

/-- An opcode placed at `pc` is the one fetched there. -/
theorem opcodeAtPc_placeOpcode (s : State) (op : Opcode) : (s.placeOpcode op).opcodeAtPc = op := by
  simp [State.opcodeAtPc, Memory.writeBytes]

/-! ### `load` (70_reset_and_hazards.md R255, R256) -/

theorem load_fits (s : State) (rom : List Byte) (h : rom.length ≤ 3584) :
    s.load rom = { s with mem := s.mem.writeBytes 0x200 rom, loadStatus := .ok } := by
  have hm : ¬ rom.length > Config.memSize - Config.progBase := by
    show ¬ rom.length > 4096 - 0x200
    omega
  rw [State.load, if_neg hm]

theorem load_too_large (s : State) (rom : List Byte) (h : rom.length > 3584) :
    s.load rom = { s with loadStatus := .tooLarge } := by
  have hm : rom.length > Config.memSize - Config.progBase := by
    show rom.length > 4096 - 0x200
    omega
  rw [State.load, if_pos hm]

end Sys2Proof.Machine
end

