-- ==== Sys2Proof/Laws/PerInstr.lean ====
section
/-! SUPPORT. Families of facts about every instruction as syntax, one lemma per constructor (LAWS.json).

`RowPattern`: the opcode of an instruction matches its row of the opcode list (30_encoding.md R84, R88). -/

namespace Sys2Proof.Laws.RowPattern

/-- The encoded instruction matches the mask and match of its row (R88). -/
def Statement (i : Instr) : Prop := (rowOf i).covers (encode i) = true

theorem covers_group (g : BitVec 4) (nnn : Addr12) :
    Row.covers ⟨0xF000, formatNNN g 0⟩ (formatNNN g nnn) = true := by
  simp [Row.covers, and_maskF000]

theorem covers_group_kk (g : BitVec 4) (x : Reg) (kk : Byte) :
    Row.covers ⟨0xF000, formatNNN g 0⟩ (formatXKK g x kk) = true := by
  simp [Row.covers, and_maskF000]

theorem covers_group_xyn (g : BitVec 4) (x y : Reg) (n : Nibble) :
    Row.covers ⟨0xF000, formatNNN g 0⟩ (formatXYN g x y n) = true := by
  simp [Row.covers, and_maskF000]

theorem covers_digit (g : BitVec 4) (x y : Reg) (n : Nibble) :
    Row.covers ⟨0xF00F, formatXYN g 0 0 n⟩ (formatXYN g x y n) = true := by
  simp [Row.covers, and_maskF00F]

theorem covers_byte (g : BitVec 4) (x : Reg) (kk : Byte) :
    Row.covers ⟨0xF0FF, formatXKK g 0 kk⟩ (formatXKK g x kk) = true := by
  simp [Row.covers, and_maskF0FF]

theorem cls : Statement .cls := rfl
theorem ret : Statement .ret := rfl
theorem jp (nnn : Addr12) : Statement (.jp nnn) := covers_group 0x1 nnn
theorem call (nnn : Addr12) : Statement (.call nnn) := covers_group 0x2 nnn
theorem seImm (x : Reg) (kk : Byte) : Statement (.seImm x kk) := covers_group_kk 0x3 x kk
theorem sneImm (x : Reg) (kk : Byte) : Statement (.sneImm x kk) := covers_group_kk 0x4 x kk
theorem seReg (x : Reg) (y : Reg) : Statement (.seReg x y) := covers_digit 0x5 x y 0x0
theorem ldImm (x : Reg) (kk : Byte) : Statement (.ldImm x kk) := covers_group_kk 0x6 x kk
theorem addImm (x : Reg) (kk : Byte) : Statement (.addImm x kk) := covers_group_kk 0x7 x kk
theorem ldReg (x : Reg) (y : Reg) : Statement (.ldReg x y) := covers_digit 0x8 x y 0x0
theorem orReg (x : Reg) (y : Reg) : Statement (.orReg x y) := covers_digit 0x8 x y 0x1
theorem andReg (x : Reg) (y : Reg) : Statement (.andReg x y) := covers_digit 0x8 x y 0x2
theorem xorReg (x : Reg) (y : Reg) : Statement (.xorReg x y) := covers_digit 0x8 x y 0x3
theorem addReg (x : Reg) (y : Reg) : Statement (.addReg x y) := covers_digit 0x8 x y 0x4
theorem subReg (x : Reg) (y : Reg) : Statement (.subReg x y) := covers_digit 0x8 x y 0x5
theorem shr (x : Reg) (y : Reg) : Statement (.shr x y) := covers_digit 0x8 x y 0x6
theorem subnReg (x : Reg) (y : Reg) : Statement (.subnReg x y) := covers_digit 0x8 x y 0x7
theorem shl (x : Reg) (y : Reg) : Statement (.shl x y) := covers_digit 0x8 x y 0xE
theorem sneReg (x : Reg) (y : Reg) : Statement (.sneReg x y) := covers_digit 0x9 x y 0x0
theorem ldI (nnn : Addr12) : Statement (.ldI nnn) := covers_group 0xA nnn
theorem jpV0 (nnn : Addr12) : Statement (.jpV0 nnn) := covers_group 0xB nnn
theorem rnd (x : Reg) (kk : Byte) : Statement (.rnd x kk) := covers_group_kk 0xC x kk
theorem drw (x : Reg) (y : Reg) (n : Nibble) : Statement (.drw x y n) := covers_group_xyn 0xD x y n
theorem skp (x : Reg) : Statement (.skp x) := covers_byte 0xE x 0x9E
theorem sknp (x : Reg) : Statement (.sknp x) := covers_byte 0xE x 0xA1
theorem ldVxDt (x : Reg) : Statement (.ldVxDt x) := covers_byte 0xF x 0x07
theorem ldVxK (x : Reg) : Statement (.ldVxK x) := covers_byte 0xF x 0x0A
theorem ldDtVx (x : Reg) : Statement (.ldDtVx x) := covers_byte 0xF x 0x15
theorem ldStVx (x : Reg) : Statement (.ldStVx x) := covers_byte 0xF x 0x18
theorem addI (x : Reg) : Statement (.addI x) := covers_byte 0xF x 0x1E
theorem ldF (x : Reg) : Statement (.ldF x) := covers_byte 0xF x 0x29
theorem ldB (x : Reg) : Statement (.ldB x) := covers_byte 0xF x 0x33
theorem ldMemVx (x : Reg) : Statement (.ldMemVx x) := covers_byte 0xF x 0x55
theorem ldVxMem (x : Reg) : Statement (.ldVxMem x) := covers_byte 0xF x 0x65

end Sys2Proof.Laws.RowPattern
end

