-- ==== Sys2Proof/Laws/Step.lean ====
section
/-! SUPPORT. What a step can do, said once: one lemma per case of 40_cycle.md R100, and the case analysis itself. -/

namespace Sys2Proof.Machine

/-- Every meaning answers a next state. -/
theorem exec_total (i : Instr) (s : State) : ∃ t, exec i s = .next t := by
  cases i <;> exact ⟨_, rfl⟩

theorem step_faulted {s : State} (h : s.faulted = true) : step s = .next s.idleStep := by
  simp [step, h]

theorem step_fetchFault {s : State} (h : s.faulted = false) (hp : s.pc.toNat > 0xFFE) :
    step s = .next s.fetchFault := by
  simp [step, h, fetch_outside s hp]

theorem step_eq_runOpcode {s : State} (h : s.faulted = false) (hp : s.pc.toNat ≤ 0xFFE) :
    step s = runOpcode s.opcodeAtPc s := by
  simp [step, h, fetch_inside s hp]

theorem runOpcode_unknown {s : State} {op : Opcode} {r : Reject} (h : decodeOpcode op = .error r) :
    runOpcode op s = .next (s.advancePc.finishStep none) := by
  simp [runOpcode, h]

theorem runOpcode_instr {s t : State} {op : Opcode} {i : Instr} (h : decodeOpcode op = .ok i)
    (he : exec i s.advancePc = .next t) :
    runOpcode op s = .next (if t.faulted then t else t.finishStep (some i)) := by
  simp [runOpcode, h, he]

/-- The cases of a step: idle in the faulted state; a fetch fault; an unknown opcode; an instruction that
faults; an instruction that completes. -/
theorem step_cases {s u : State} (h : step s = .next u) :
    (s.faulted = true ∧ u = s.idleStep) ∨
    (s.faulted = false ∧ s.pc.toNat > 0xFFE ∧ u = s.fetchFault) ∨
    (s.faulted = false ∧ s.pc.toNat ≤ 0xFFE ∧ (∃ r, decodeOpcode s.opcodeAtPc = .error r) ∧
      u = s.advancePc.finishStep none) ∨
    (∃ i t, s.faulted = false ∧ s.pc.toNat ≤ 0xFFE ∧ decodeOpcode s.opcodeAtPc = .ok i ∧
      exec i s.advancePc = .next t ∧ t.faulted = true ∧ u = t) ∨
    (∃ i t, s.faulted = false ∧ s.pc.toNat ≤ 0xFFE ∧ decodeOpcode s.opcodeAtPc = .ok i ∧
      exec i s.advancePc = .next t ∧ t.faulted = false ∧ u = t.finishStep (some i)) := by
  cases hf : s.faulted with
  | true =>
    rw [step_faulted hf] at h
    exact .inl ⟨rfl, by injection h with h; exact h.symm⟩
  | false =>
    by_cases hp : s.pc.toNat > 0xFFE
    · rw [step_fetchFault hf hp] at h
      exact .inr (.inl ⟨rfl, hp, by injection h with h; exact h.symm⟩)
    · have hp' : s.pc.toNat ≤ 0xFFE := by omega
      rw [step_eq_runOpcode hf hp'] at h
      cases hd : decodeOpcode s.opcodeAtPc with
      | error r =>
        rw [runOpcode_unknown hd] at h
        exact .inr (.inr (.inl ⟨rfl, hp', ⟨r, rfl⟩, by injection h with h; exact h.symm⟩))
      | ok i =>
        obtain ⟨t, ht⟩ := exec_total i s.advancePc
        rw [runOpcode_instr hd ht] at h
        injection h with h
        cases hft : t.faulted with
        | true =>
          rw [hft, if_pos rfl] at h
          exact .inr (.inr (.inr (.inl ⟨i, t, rfl, hp', rfl, ht, hft, h.symm⟩)))
        | false =>
          rw [hft, if_neg (by simp)] at h
          exact .inr (.inr (.inr (.inr ⟨i, t, rfl, hp', rfl, ht, hft, h.symm⟩)))

/-- Every step answers a next state: the model neither faults nor refuses (log 4). -/
theorem step_total (s : State) : ∃ t, step s = .next t := by
  cases hf : s.faulted with
  | true => exact ⟨_, step_faulted hf⟩
  | false =>
    by_cases hp : s.pc.toNat > 0xFFE
    · exact ⟨_, step_fetchFault hf hp⟩
    · rw [step_eq_runOpcode hf (by omega)]
      cases hd : decodeOpcode s.opcodeAtPc with
      | error r => exact ⟨_, runOpcode_unknown hd⟩
      | ok i =>
        obtain ⟨t, ht⟩ := exec_total i s.advancePc
        exact ⟨_, runOpcode_instr hd ht⟩

end Sys2Proof.Machine
end

