-- ==== Sys2Proof/WellFormed.lean ====
section
/-! DEFINITION. Which numbers may stand as an instruction's operands (30_encoding.md R82) and which byte
sequences are a ROM (70_reset_and_hazards.md R256, R257). The operand types of `Instr` carry the ranges, so every
term of `Instr` is well formed; these checks are where a plain number becomes an operand, and a number outside
its field's range is refused by name. -/

namespace Sys2Proof

/-- Why a number is no operand, or a byte sequence no ROM. -/
inductive IllFormed where
  /-- a register number above 0xF (R82: "a 4-bit register index") -/
  | registerOutOfRange (value : Nat)
  /-- an immediate `kk` above 0xFF (R82: "an 8-bit unsigned immediate") -/
  | immediateOutOfRange (value : Nat)
  /-- an address `nnn` above 0xFFF (R82: "a 12-bit unsigned address") -/
  | addressOutOfRange (value : Nat)
  /-- a sprite height `n` above 15 (R82: "a 4-bit unsigned count") -/
  | heightOutOfRange (value : Nat)
  /-- a ROM longer than 3584 bytes (R256) -/
  | romTooLarge (length : Nat)
  deriving DecidableEq, Repr

namespace WellFormed

/-- A number as a register operand `x` or `y`. -/
def register (value : Nat) : Except IllFormed Reg :=
  if h : value < Config.numV then .ok ⟨value, h⟩ else .error (.registerOutOfRange value)

/-- A number as an immediate `kk`. -/
def immediate (value : Nat) : Except IllFormed Byte :=
  if value < 256 then .ok (BitVec.ofNat 8 value) else .error (.immediateOutOfRange value)

/-- A number as an address `nnn`. -/
def address (value : Nat) : Except IllFormed Addr12 :=
  if value < 4096 then .ok (BitVec.ofNat 12 value) else .error (.addressOutOfRange value)

/-- A number as a sprite height `n`. -/
def height (value : Nat) : Except IllFormed Nibble :=
  if value < 16 then .ok (BitVec.ofNat 4 value) else .error (.heightOutOfRange value)

/-- A byte sequence as a ROM: no header, no length field, at most `4096 - 0x200` bytes (R256, R257). -/
def rom (bytes : List Byte) : Except IllFormed (List Byte) :=
  if bytes.length ≤ Config.maxRom then .ok bytes else .error (.romTooLarge bytes.length)

end WellFormed

end Sys2Proof
end

