-- ==== Sys2Proof/Tests/Slice0.lean ====
section
/-! SUPPORT. The model's own tests: expected results are those of 95_test_vectors.md (the vector is named) or
worked out by hand from the rule named; words are written out from the encodings of 30_encoding.md. Then, for
every statement with hypotheses, a state that meets them. -/

namespace Sys2Proof.Tests

open Sys2Proof Sys2Proof.Machine Sys2Proof.Claims

/-! ## Well-formedness: each check refuses an ill-formed number and passes the last good one -/

theorem test_wf_register : WellFormed.register 16 = .error (.registerOutOfRange 16) ∧
    WellFormed.register 15 = .ok 15 := ⟨rfl, rfl⟩

theorem test_wf_immediate : WellFormed.immediate 256 = .error (.immediateOutOfRange 256) ∧
    WellFormed.immediate 255 = .ok 0xFF := ⟨rfl, rfl⟩

theorem test_wf_address : WellFormed.address 4096 = .error (.addressOutOfRange 4096) ∧
    WellFormed.address 4095 = .ok 0xFFF := ⟨rfl, rfl⟩

theorem test_wf_height : WellFormed.height 16 = .error (.heightOutOfRange 16) ∧
    WellFormed.height 15 = .ok 15 := ⟨rfl, rfl⟩

theorem test_wf_rom : WellFormed.rom (List.replicate 3585 0) = .error (.romTooLarge 3585) := by
  have h : (List.replicate 3585 (0 : Byte)).length = 3585 := List.length_replicate
  rw [WellFormed.rom, if_neg (by rw [h]; decide), h]

/-! ## Decoding: the word of each row bit by bit, with a register field 1010, a second one 0101, an immediate
10000011, an address 100000000011, a height 1001 -/

theorem test_decode_cls : decodeTableWord 16 0b0000000011100000 = some .cls := by decide
theorem test_decode_ret : decodeTableWord 16 0b0000000011101110 = some .ret := by decide
theorem test_decode_jp : decodeTableWord 16 0b0001100000000011 = some (.jp 0x803) := by decide
theorem test_decode_call : decodeTableWord 16 0b0010100000000011 = some (.call 0x803) := by decide
theorem test_decode_seImm : decodeTableWord 16 0b0011101010000011 = some (.seImm 0xA 0x83) := by decide
theorem test_decode_sneImm : decodeTableWord 16 0b0100101010000011 = some (.sneImm 0xA 0x83) := by decide
theorem test_decode_seReg : decodeTableWord 16 0b0101101001010000 = some (.seReg 0xA 0x5) := by decide
theorem test_decode_ldImm : decodeTableWord 16 0b0110101010000011 = some (.ldImm 0xA 0x83) := by decide
theorem test_decode_addImm : decodeTableWord 16 0b0111101010000011 = some (.addImm 0xA 0x83) := by decide
theorem test_decode_ldReg : decodeTableWord 16 0b1000101001010000 = some (.ldReg 0xA 0x5) := by decide
theorem test_decode_orReg : decodeTableWord 16 0b1000101001010001 = some (.orReg 0xA 0x5) := by decide
theorem test_decode_andReg : decodeTableWord 16 0b1000101001010010 = some (.andReg 0xA 0x5) := by decide
theorem test_decode_xorReg : decodeTableWord 16 0b1000101001010011 = some (.xorReg 0xA 0x5) := by decide
theorem test_decode_addReg : decodeTableWord 16 0b1000101001010100 = some (.addReg 0xA 0x5) := by decide
theorem test_decode_subReg : decodeTableWord 16 0b1000101001010101 = some (.subReg 0xA 0x5) := by decide
theorem test_decode_shr : decodeTableWord 16 0b1000101001010110 = some (.shr 0xA 0x5) := by decide
theorem test_decode_subnReg : decodeTableWord 16 0b1000101001010111 = some (.subnReg 0xA 0x5) := by decide
theorem test_decode_shl : decodeTableWord 16 0b1000101001011110 = some (.shl 0xA 0x5) := by decide
theorem test_decode_sneReg : decodeTableWord 16 0b1001101001010000 = some (.sneReg 0xA 0x5) := by decide
theorem test_decode_ldI : decodeTableWord 16 0b1010100000000011 = some (.ldI 0x803) := by decide
theorem test_decode_jpV0 : decodeTableWord 16 0b1011100000000011 = some (.jpV0 0x803) := by decide
theorem test_decode_rnd : decodeTableWord 16 0b1100101010000011 = some (.rnd 0xA 0x83) := by decide
theorem test_decode_drw : decodeTableWord 16 0b1101101001011001 = some (.drw 0xA 0x5 9) := by decide
theorem test_decode_skp : decodeTableWord 16 0b1110101010011110 = some (.skp 0xA) := by decide
theorem test_decode_sknp : decodeTableWord 16 0b1110101010100001 = some (.sknp 0xA) := by decide
theorem test_decode_ldVxDt : decodeTableWord 16 0b1111101000000111 = some (.ldVxDt 0xA) := by decide
theorem test_decode_ldVxK : decodeTableWord 16 0b1111101000001010 = some (.ldVxK 0xA) := by decide
theorem test_decode_ldDtVx : decodeTableWord 16 0b1111101000010101 = some (.ldDtVx 0xA) := by decide
theorem test_decode_ldStVx : decodeTableWord 16 0b1111101000011000 = some (.ldStVx 0xA) := by decide
theorem test_decode_addI : decodeTableWord 16 0b1111101000011110 = some (.addI 0xA) := by decide
theorem test_decode_ldF : decodeTableWord 16 0b1111101000101001 = some (.ldF 0xA) := by decide
theorem test_decode_ldB : decodeTableWord 16 0b1111101000110011 = some (.ldB 0xA) := by decide
theorem test_decode_ldMemVx : decodeTableWord 16 0b1111101001010101 = some (.ldMemVx 0xA) := by decide
theorem test_decode_ldVxMem : decodeTableWord 16 0b1111101001100101 = some (.ldVxMem 0xA) := by decide

/-- Y1 to Y5: unknown opcodes. -/
theorem test_decode_unknown : ([0x0000, 0x00E1, 0x0123, 0x5121, 0x8008, 0x800F, 0x9121, 0xE0A2, 0xE19F, 0xF0FF,
    0xF000].map (decodeTableWord 16)).all Option.isNone = true := by decide

/-- Fewer than two bytes are no opcode. -/
theorem test_decode_short : (match decode [0x60] with | .error .shortInput => true | _ => false) = true := by
  decide

/-! ## One step of each instruction, on small states -/

/-- The opcode at 0x200, everything else as after reset. -/
def start (op : Opcode) : State := State.reset.placeOpcode op

/-- The same with some registers set. -/
def withV (s : State) (rs : List (Reg × Byte)) : State := rs.foldl (fun t p => t.setV p.1 p.2) s

/-- The same with bytes stored from an address on. -/
def withBytes (s : State) (a : Nat) (bs : List Byte) : State := { s with mem := s.mem.writeBytes a bs }

/-- The state after one step. -/
def stepped (s : State) : State :=
  match step s with
  | .next t => t
  | _ => s

theorem step_stepped (s : State) : step s = .next (stepped s) := by
  obtain ⟨t, ht⟩ := step_total s
  simp only [stepped, ht]

/-- The fault record: code, `FAULT_PC`, `FAULT_OPCODE`, `FAULT_INFO`. -/
def record (s : State) : BitVec 3 × Word × Opcode × Word :=
  (faultNumber s.faultCode, s.faultPc, s.faultOpcode, s.faultInfo)

/-- S8 -/
theorem test_ldImm : (stepped (start 0x6A05)).getV 0xA = 0x05 ∧ (stepped (start 0x6A05)).pc = 0x202 := by decide

/-- Y1 -/
theorem test_unknown : let t := stepped { start 0x0123 with dt := 2, st := 1 }
    t.pc = 0x202 ∧ t.dt = 1 ∧ t.st = 0 ∧ t.faulted = false := by decide

/-- Y7: the last address a fetch may start at. -/
theorem test_fetch_last : let t := stepped (withBytes { State.reset with pc := 0xFFE } 0xFFE [0x60, 0x11])
    t.getV 0 = 0x11 ∧ t.pc = 0x1000 := by decide

/-- Y8 -/
theorem test_fetch_fault : let t := stepped { State.reset with pc := 0xFFF, dt := 3 }
    record t = (3, 0xFFF, 0, 0xFFF) ∧ t.pc = 0xFFF ∧ t.dt = 3 := by decide

/-- Y10 -/
theorem test_faulted_idle :
    let t := stepped { start 0x6A05 with faulted := true, dt := 4, fbUpdated := true }
    t.getV 0xA = 0 ∧ t.dt = 4 ∧ t.pc = 0x200 ∧ t.fbUpdated = false := by decide

/-- CF1 -/
theorem test_jp : (stepped (start 0x1234)).pc = 0x234 := by decide

/-- CF18: the pushed address lies outside memory. -/
theorem test_call :
    let t := stepped (withBytes { State.reset with pc := 0xFFE } 0xFFE [0x23, 0x00])
    t.stack[0] = 0x1000 ∧ t.sp = 1 ∧ t.pc = 0x300 := by decide

/-- CF4, at 0x200 -/
theorem test_call_fault : let t := stepped { start 0x2400 with sp := 16, dt := 5 }
    record t = (1, 0x200, 0x2400, 0x400) ∧ t.sp = 16 ∧ t.pc = 0x200 ∧ t.dt = 5 := by decide

/-- CF5 -/
theorem test_ret :
    let t := stepped { start 0x00EE with sp := 1, stack := State.reset.stack.set 0 0x206 }
    t.sp = 0 ∧ t.pc = 0x206 ∧ t.stack[0] = 0x206 := by decide

/-- CF6 -/
theorem test_ret_fault : let t := stepped { start 0x00EE with dt := 5 }
    record t = (2, 0x200, 0x00EE, 0) ∧ t.sp = 0 ∧ t.pc = 0x200 ∧ t.dt = 5 := by decide

/-- CF7, CF8 -/
theorem test_seImm : (stepped (withV (start 0x3310) [(3, 0x10)])).pc = 0x204 ∧
    (stepped (withV (start 0x3311) [(3, 0x10)])).pc = 0x202 := by decide

/-- CF10 -/
theorem test_sneImm : (stepped (withV (start 0x4311) [(3, 0x10)])).pc = 0x204 ∧
    (stepped (withV (start 0x4310) [(3, 0x10)])).pc = 0x202 := by decide

/-- CF11, CF13 -/
theorem test_seReg : (stepped (withV (start 0x5120) [(1, 7), (2, 7)])).pc = 0x204 ∧
    (stepped (withV (start 0x5120) [(1, 7), (2, 8)])).pc = 0x202 := by decide

/-- CF13, CF14 -/
theorem test_sneReg : (stepped (withV (start 0x9120) [(1, 7), (2, 8)])).pc = 0x204 ∧
    (stepped (withV (start 0x9440) [(4, 7)])).pc = 0x202 := by decide

/-- CF16 -/
theorem test_jpV0 : (stepped (withV (start 0xBFFF) [(0, 0xFF)])).pc = 0x10FE := by decide

/-- AL2, AL3 -/
theorem test_addImm : let t := stepped (withV (start 0x7201) [(2, 0xFF), (15, 0x55)])
    t.getV 2 = 0 ∧ t.getV 15 = 0x55 ∧ (stepped (withV (start 0x7F01) [(15, 0xFF)])).getV 15 = 0 := by decide

/-- AL4 -/
theorem test_ldReg : let t := stepped (withV (start 0x8010) [(1, 0x33)])
    t.getV 0 = 0x33 ∧ t.getV 1 = 0x33 := by decide

/-- AL5 -/
theorem test_orReg : let t := stepped (withV (start 0x8011) [(0, 0x0F), (1, 0xF0), (15, 0x07)])
    t.getV 0 = 0xFF ∧ t.getV 15 = 0x07 := by decide

/-- AL6 -/
theorem test_andReg : (stepped (withV (start 0x8012) [(0, 0x3C), (1, 0x0F)])).getV 0 = 0x0C := by decide

/-- AL7 -/
theorem test_xorReg : (stepped (withV (start 0x8013) [(0, 0xFF), (1, 0x0F)])).getV 0 = 0xF0 := by decide

/-- AL9, AL10 -/
theorem test_addReg : let t := stepped (withV (start 0x8014) [(0, 0x80), (1, 0x80)])
    let u := stepped (withV (start 0x8014) [(0, 0x80), (1, 0x7F)])
    t.getV 0 = 0 ∧ t.getV 15 = 1 ∧ u.getV 0 = 0xFF ∧ u.getV 15 = 0 := by decide

/-- AL13, AL14: `VF` as destination and as source. -/
theorem test_addReg_vf : let u := stepped (withV (start 0x80F4) [(0, 0x01), (15, 0xFF)])
    (stepped (withV (start 0x8F14) [(15, 0x10), (1, 0x10)])).getV 15 = 0 ∧
      u.getV 0 = 0 ∧ u.getV 15 = 1 := by decide

/-- AL15, AL16 -/
theorem test_subReg : let t := stepped (withV (start 0x8015) [(0, 0), (1, 1)])
    let u := stepped (withV (start 0x8015) [(0, 9), (1, 9)])
    t.getV 0 = 0xFF ∧ t.getV 15 = 0 ∧ u.getV 0 = 0 ∧ u.getV 15 = 0 := by decide

/-- AL17, AL18 -/
theorem test_subReg_vf : let u := stepped (withV (start 0x80F5) [(0, 3), (15, 5)])
    (stepped (withV (start 0x8F15) [(15, 5), (1, 3)])).getV 15 = 1 ∧
      u.getV 0 = 0xFE ∧ u.getV 15 = 0 := by decide

/-- AL19, AL20 -/
theorem test_subnReg : let t := stepped (withV (start 0x8017) [(0, 5), (1, 7)])
    let u := stepped (withV (start 0x8017) [(0, 7), (1, 5)])
    t.getV 0 = 2 ∧ t.getV 15 = 1 ∧ u.getV 0 = 0xFE ∧ u.getV 15 = 0 := by decide

/-- AL23, AL24 -/
theorem test_shr : let t := stepped (withV (start 0x8006) [(0, 5)])
    let u := stepped (withV (start 0x8016) [(0, 4), (1, 0xFF)])
    t.getV 0 = 2 ∧ t.getV 15 = 1 ∧ u.getV 0 = 2 ∧ u.getV 15 = 0 := by decide

/-- AL28, AL30 -/
theorem test_shl : let t := stepped (withV (start 0x800E) [(0, 0x81)])
    let u := stepped (withV (start 0x801E) [(0, 0x7F), (1, 0x80)])
    t.getV 0 = 2 ∧ t.getV 15 = 1 ∧ u.getV 0 = 0xFE ∧ u.getV 15 = 0 := by decide

/-- AL32 -/
theorem test_ldI : (stepped (start 0xA300)).i = 0x300 := by decide

/-- AL34: the presented byte is used up. -/
theorem test_rnd : let t := stepped { start 0xC30F with randIn := some 0xA7 }
    t.getV 3 = 0x07 ∧ t.randIn = none := by decide

/-- AL38, AL39 -/
theorem test_addI : (stepped (withV { start 0xF11E with i := 0xFFF } [(1, 1)])).i = 0x1000 ∧
    (stepped (withV { start 0xF11E with i := 0xFFFF } [(1, 1)])).i = 0 := by decide

/-- MB1, MB3 -/
theorem test_ldB : let t := stepped (withV { start 0xF033 with i := 0x300 } [(0, 254)])
    let u := stepped (withV { start 0xF033 with i := 0xFFD } [(0, 7)])
    t.mem.readBytes 0x300 3 = [2, 5, 4] ∧ t.i = 0x300 ∧ u.mem.readBytes 0xFFD 3 = [0, 0, 7] := by decide

/-- MB4 -/
theorem test_ldB_fault : let s := withV { start 0xF033 with i := 0xFFE } [(0, 7)]
    record (stepped s) = (4, 0x200, 0xF033, 0x1000) ∧ (stepped s).mem = s.mem := by decide

/-- MB5 -/
theorem test_ldMemVx : let t := stepped (withV { start 0xF255 with i := 0x400 } [(0, 1), (1, 2), (2, 3), (3, 4)])
    t.mem.readBytes 0x400 4 = [1, 2, 3, 0] ∧ t.i = 0x400 := by decide

/-- MB7 -/
theorem test_ldMemVx_fault : let s := withV { start 0xF155 with i := 0xFFF } [(0, 0xAA)]
    record (stepped s) = (4, 0x200, 0xF155, 0x1000) ∧ (stepped s).mem.read 0xFFF = 0 := by decide

/-- MB9, with a register above `V2` kept -/
theorem test_ldVxMem : let t := stepped (withV (withBytes { start 0xF265 with i := 0x300 } 0x300 [2, 5, 4, 9]) [(3, 8)])
    t.getV 0 = 2 ∧ t.getV 1 = 5 ∧ t.getV 2 = 4 ∧ t.getV 3 = 8 ∧ t.i = 0x300 := by decide

/-- MB12 -/
theorem test_ldVxMem_fault : let t := stepped (withV { start 0xF065 with i := 0x1000 } [(0, 8)])
    record t = (4, 0x200, 0xF065, 0x1000) ∧ t.getV 0 = 8 := by decide

/-- MB13, MB15 -/
theorem test_ldF : (stepped (withV (start 0xF029) [(0, 5)])).i = 0x069 ∧
    (stepped (withV (start 0xF029) [(0, 0xFF)])).i = 0x54B := by decide

/-- S9, DR1 -/
theorem test_cls :
    let s := withV { start 0x00E0 with fb := Vector.replicate 32 (BitVec.allOnes 64) } [(15, 0x33)]
    (stepped s).fb = Vector.replicate 32 0 ∧ (stepped s).getV 15 = 0x33 ∧ (stepped s).fbUpdated = true := by
  decide

/-- DR3: the corner, clipped on both sides. -/
theorem test_drw_clip :
    let t := stepped (withV (withBytes { start 0xD012 with i := 0x300 } 0x300 [0xFF, 0x81]) [(0, 60), (1, 31)])
    t.fb[31] = 0xF000000000000000 ∧ t.fb[0] = 0 ∧ t.getV 15 = 0 ∧ t.fbUpdated = true := by decide

/-- DR5: pixel (0, 0) on before, sprite 0xC0. -/
theorem test_drw_collision :
    let t := stepped (withBytes { start 0xD011 with i := 0x300, fb := State.reset.fb.set 0 1 } 0x300 [0xC0])
    t.fb[0] = 2 ∧ t.getV 15 = 1 := by decide

/-- KT1, KT2 -/
theorem test_skp : (stepped (withV { start 0xE19E with keys := 0x0080 } [(1, 7)])).pc = 0x204 ∧
    (stepped (withV { start 0xE19E with keys := 0x0140 } [(1, 7)])).pc = 0x202 := by decide

/-- KT5 -/
theorem test_skp_fault : let t := stepped (withV (start 0xE09E) [(0, 0x10)])
    record t = (5, 0x200, 0xE09E, 0x10) ∧ t.pc = 0x200 := by decide

/-- KT3, KT4 -/
theorem test_sknp : (stepped (withV (start 0xE1A1) [(1, 7)])).pc = 0x204 ∧
    (stepped (withV { start 0xE1A1 with keys := 0x0080 } [(1, 7)])).pc = 0x202 := by decide

/-- KT6 -/
theorem test_sknp_fault : record (stepped (withV (start 0xE0A1) [(0, 0xFF)])) = (5, 0x200, 0xE0A1, 0xFF) := by
  decide

/-- KT7, at 0x200 -/
theorem test_ldVxK_stall : let t := stepped (withV { start 0xF20A with dt := 2 } [(2, 0x33)])
    t.pc = 0x200 ∧ t.getV 2 = 0x33 ∧ t.dt = 1 := by decide

/-- KT8, at 0x200 -/
theorem test_ldVxK : let t := stepped { start 0xF20A with keys := 0x0280, dt := 1 }
    t.getV 2 = 7 ∧ t.pc = 0x202 ∧ t.dt = 0 := by decide

/-- KT12 -/
theorem test_ldVxDt : let t := stepped { start 0xF307 with dt := 5 }
    t.getV 3 = 5 ∧ t.dt = 4 := by decide

/-- KT14, KT15 -/
theorem test_ldDtVx : (stepped (withV (start 0xF015) [(0, 3)])).dt = 2 ∧
    (stepped (withV (start 0xF015) [(0, 0)])).dt = 0 := by decide

/-- KT16 -/
theorem test_ldStVx : let t := stepped (withV { start 0xF018 with dt := 9 } [(0, 0x10)])
    t.st = 0x0F ∧ t.dt = 8 := by decide

/-- AL34 and KT8 as host transactions, whatever the input fields held before. -/
theorem test_step_transaction :
    (match transact (.step 0 0xA7) { start 0xC30F with randIn := some 0 } with
      | .next t => t.getV 3 == 0x07
      | _ => false) = true ∧
    (match transact (.step 0x0280 0) { start 0xF20A with keys := 1 } with
      | .next t => t.getV 2 == 7
      | _ => false) = true := by decide

/-- RS5 -/
theorem test_load : let t := (withBytes State.reset 0x200 [0x60, 0x11, 0x22, 0x33]).load [0x12, 0x00]
    t.mem.readBytes 0x200 4 = [0x12, 0x00, 0x22, 0x33] ∧ t.loadStatus = .ok ∧ t.pc = 0x200 := by decide

/-- RS8 -/
theorem test_reset_faulted :
    (stepped { State.reset with pc := 0xFFF }).faulted = true ∧
      (stepped { State.reset with pc := 0xFFF }).hostReset = State.reset := by decide

/-- R37: the default font's first glyph at 0x050 and its last byte at 0x09F. -/
theorem test_font : State.reset.mem.readBytes 0x050 5 = [0xF0, 0x90, 0x90, 0x90, 0xF0] ∧
    State.reset.mem.readBytes 0x09F 2 = [0x80, 0x00] := by decide

/-- The canonical form: writing what an address holds after reset unlists it. -/
theorem test_memory_canonical : (Memory.write (Memory.write [] 0x050 7) 0x050 0xF0 = []) ∧
    Memory.write (Memory.write [] 0x300 7) 0x2FF 8 = [(0x2FF, 8), (0x300, 7)] := by decide

/-! ## Witnesses: states and operands that meet the hypotheses of the statements, clause by clause -/

/-- The reset state meets the invariant, and so does one with an opcode placed. -/
theorem inv_start (op : Opcode) : (start op).Inv := by
  refine ⟨Memory.wf_writeBytes _ _ _ ?_ Memory.wf_nil, ?_, ?_, rfl, rfl, rfl⟩
  · show 0x200 + 2 ≤ 4096
    decide
  · simp [start, State.reset]
  · simp [start, State.reset]

/-- A state after a stack fault. -/
def faultedState : State := stepped { start 0x00EE with dt := 5 }

/-- Both kinds of step: one that completes, and one from a faulted state. -/
theorem witness_StepKeepsInvariant :
    ((start 0x6A05).Inv ∧ step (start 0x6A05) = .next (stepped (start 0x6A05))) ∧
    (faultedState.Inv ∧ step faultedState = .next (stepped faultedState)) :=
  ⟨⟨inv_start _, step_stepped _⟩,
    ⟨by decide, by decide, by decide, rfl, rfl, rfl⟩, step_stepped _⟩

theorem witness_EveryRunOfTransactionsKeepsInvariant : State.reset.Inv ∧ faultedState.Inv :=
  ⟨⟨Memory.wf_nil, by decide, by decide, rfl, rfl, rfl⟩, witness_StepKeepsInvariant.2.1⟩

theorem witness_CanonicalMemoriesWithEqualBytesAreEqual :
    ∃ m m' : Memory, m.wf ∧ m'.wf ∧ ∀ a, a < 4096 → m.read a = m'.read a :=
  ⟨[(0x050, 7), (0xFFF, 9)], Memory.writeBytes [(0x050, 7)] 0xFFF [9], by decide, by decide, fun _ _ => rfl⟩

/-- A ROM of the largest size, its last byte, and the addresses on both sides of it. -/
theorem witness_LoadCopiesRomVerbatim : ∃ rom : List Byte, rom.length ≤ 3584 ∧ 3583 < rom.length ∧
    (0x1FF < 0x200 ∨ 0x200 + rom.length ≤ 0x1FF) ∧ (0x1000 < 0x200 ∨ 0x200 + rom.length ≤ 0x1000) := by
  refine ⟨List.replicate 3584 7, ?_⟩
  rw [List.length_replicate]
  decide

theorem witness_LoadRefusesTooLargeRom : ∃ rom : List Byte, rom.length > 3584 := by
  refine ⟨List.replicate 3585 7, ?_⟩
  rw [List.length_replicate]
  decide

theorem witness_EncodeUndoesDecode : decodeOpcode 0xDA59 = .ok (.drw 0xA 0x5 9) := rfl

theorem witness_DecoderFollowsMaskAndMatchList :
    decodeOpcode 0x8A5E = .ok (.shl 0xA 0x5) ∧ (rowOf (.shl 0 0)).covers 0x8A5E = true := ⟨rfl, by decide⟩

/-- One instruction that completes and one that faults. -/
theorem witness_StepRunsTheDecodedInstruction : ∃ (s t u : State),
    (s.faulted = false ∧ s.pc.toNat ≤ 0xFFE ∧
      decode [s.mem.read s.pc.toNat, s.mem.read (s.pc.toNat + 1)] = .ok (.ldImm 0xA 5, []) ∧
      exec (.ldImm 0xA 5) { s with pc := s.pc + 2 } = .next t ∧ t.faulted = false) ∧
    (faultedState.pc = 0x200 ∧
      decode [(start 0x00EE).mem.read 0x200, (start 0x00EE).mem.read 0x201] = .ok (.ret, []) ∧
      exec .ret { start 0x00EE with pc := 0x202 } = .next u ∧ u.faulted = true) :=
  ⟨start 0x6A05, _, _, ⟨rfl, by decide, rfl, rfl, rfl⟩, by decide, rfl, rfl, rfl⟩

theorem witness_UnknownOpcodeIsNoOp : (start 0x5121).faulted = false ∧ (start 0x5121).pc.toNat ≤ 0xFFE ∧
    decodeOpcode (start 0x5121).opcodeAtPc = .error (.unknownOpcode 0x5121) := ⟨rfl, by decide, rfl⟩

/-- A placed opcode runs. -/
theorem runsAt_start {op : Opcode} {i : Instr} (h : decodeOpcode op = .ok i) : RunsAt (start op) i := by
  refine ⟨rfl, ?_, by rw [start, opcodeAtPc_placeOpcode]; exact h⟩
  show (0x200#16).toNat ≤ 0xFFE
  decide

/-- An instruction that falls through, one that skips, and the key wait with no key pressed. -/
theorem witness_ProgramCounterAfterEachInstruction :
    (RunsAt (start 0x6A05) (.ldImm 0xA 5) ∧ (stepped (start 0x6A05)).faulted = false) ∧
    (RunsAt (start 0x5440) (.seReg 4 4) ∧ (stepped (start 0x5440)).faulted = false) ∧
    (RunsAt (start 0xF20A) (.ldVxK 2) ∧ (stepped (start 0xF20A)).faulted = false) :=
  ⟨⟨runsAt_start rfl, by decide⟩, ⟨runsAt_start rfl, by decide⟩, runsAt_start rfl, by decide⟩

/-- The instruction that sets `DT`, the one that sets `ST`, and another. -/
theorem witness_TimersTickOnceAStep :
    (RunsAt (start 0xF015) (.ldDtVx 0) ∧ (stepped (start 0xF015)).faulted = false) ∧
    (RunsAt (start 0xF018) (.ldStVx 0) ∧ (stepped (start 0xF018)).faulted = false) ∧
    (RunsAt (start 0x1200) (.jp 0x200) ∧ (stepped (start 0x1200)).faulted = false) :=
  ⟨⟨runsAt_start rfl, by decide⟩, ⟨runsAt_start rfl, by decide⟩, runsAt_start rfl, by decide⟩

/-- A parked core with `DT = 2`, step after step. -/
def parkedRun : Nat → State
  | 0 => { start 0x1200 with dt := 2 }
  | n + 1 => stepped (parkedRun n)

/-- Three steps, the last one with `DT` already 0. -/
theorem witness_DelayTimerRunsDown : ∀ k, k < 3 →
    step (parkedRun k) = .next (parkedRun (k + 1)) ∧ (parkedRun (k + 1)).faulted = false ∧
      ∀ x, decodeOpcode (parkedRun k).opcodeAtPc ≠ .ok (.ldDtVx x) := by
  intro k hk
  refine ⟨step_stepped _, ?_, ?_⟩
  · interval_cases k <;> decide
  · intro x h
    have hop : (parkedRun k).opcodeAtPc = 0x1200 := by interval_cases k <;> decide
    rw [hop] at h
    cases h

/-- A step that draws and one that does not. -/
theorem witness_FbUpdatedExactlyAfterDrawing :
    (step (start 0x00E0) = .next (stepped (start 0x00E0)) ∧ (stepped (start 0x00E0)).fbUpdated = true) ∧
    (step (start 0x1200) = .next (stepped (start 0x1200)) ∧ (stepped (start 0x1200)).fbUpdated = false) :=
  ⟨⟨step_stepped _, by decide⟩, step_stepped _, by decide⟩

/-- A step that consumes a random byte and one that does not. -/
theorem witness_StepLeavesInputsButOneRandomByte :
    (step (start 0xC30F) = .next (stepped (start 0xC30F)) ∧ ∃ x kk, RunsAt (start 0xC30F) (.rnd x kk)) ∧
    (step (start 0x1200) = .next (stepped (start 0x1200)) ∧ ∀ x kk, ¬ RunsAt (start 0x1200) (.rnd x kk)) := by
  refine ⟨⟨step_stepped _, 3, 0x0F, runsAt_start rfl⟩, step_stepped _, ?_⟩
  rintro x kk ⟨-, -, h⟩
  rw [start, opcodeAtPc_placeOpcode] at h
  cases h

theorem witness_OtherStepsDoNotDependOnInputs :
    (∀ i, RunsAt (start 0xD015) i → readsInputs i = false) ∧
      step (start 0xD015) = .next (stepped (start 0xD015)) := by
  refine ⟨?_, step_stepped _⟩
  rintro i ⟨-, -, h⟩
  rw [start, opcodeAtPc_placeOpcode] at h
  cases h
  rfl

/-- Each of the four instructions at `pc`, the highest key number, no key, and a least key. -/
theorem witness_StepTransactionRunsWithThePresentedInputs :
    RunsAt (start 0xC30F) (.rnd 3 0x0F) ∧
    (RunsAt (withV (start 0xE09E) [(0, 0x0F)]) (.skp 0) ∧ ((withV (start 0xE09E) [(0, 0x0F)]).getV 0).toNat ≤ 0xF) ∧
    (RunsAt (withV (start 0xE0A1) [(0, 0x0F)]) (.sknp 0) ∧ ((withV (start 0xE0A1) [(0, 0x0F)]).getV 0).toNat ≤ 0xF) ∧
    (RunsAt (start 0xF20A) (.ldVxK 2) ∧ (∀ k, k < 16 → (0 : BitVec 16).getLsbD k = false) ∧
      (0x8000 : BitVec 16).getLsbD 15 = true ∧ ∀ j, j < 15 → (0x8000 : BitVec 16).getLsbD j = false) := by
  refine ⟨runsAt_start rfl, ⟨runsAt_start (op := 0xE09E) rfl, by decide⟩,
    ⟨runsAt_start (op := 0xE0A1) rfl, by decide⟩, runsAt_start rfl, by decide⟩

theorem witness_ParkedCoreStaysParked : (start 0x1200).safe ∧ (start 0x1200).parked :=
  ⟨rfl, 0x200, by decide, by decide⟩

/-- A state that can fetch, at the last address it can fetch from. -/
theorem witness_PlacedOpcodeIsFetchedNext : ∃ s : State, s.faulted = false ∧ s.pc.toNat ≤ 0xFFE ∧
    0xFFD ≠ s.pc.toNat ∧ 0xFFD ≠ s.pc.toNat + 1 :=
  ⟨{ State.reset with pc := 0xFFE }, by decide, by decide, by decide, by decide⟩

/-- Each fault, and its neighbour that does not fault. -/
theorem witness_FaultsAreExactlyTheListedOnesAndPrecise :
    (stepFault { State.reset with pc := 0xFFF } = some (.fetchOutOfRange, 0xFFF) ∧
      stepFault { State.reset with pc := 0xFFE } = none) ∧
    (stepFault { start 0x2400 with sp := 16 } = some (.stackOverflow, 0x400) ∧
      stepFault { start 0x2400 with sp := 15 } = none) ∧
    (stepFault (start 0x00EE) = some (.stackUnderflow, 0) ∧ stepFault { start 0x00EE with sp := 1 } = none) ∧
    (stepFault { start 0xF033 with i := 0xFFE } = some (.dataOutOfRange, 0x1000) ∧
      stepFault { start 0xF033 with i := 0xFFD } = none) ∧
    (stepFault { start 0xFF55 with i := 0xFF1 } = some (.dataOutOfRange, 0x1000) ∧
      stepFault { start 0xFF55 with i := 0xFF0 } = none) ∧
    (stepFault { start 0xF065 with i := 0xFFFF } = some (.dataOutOfRange, 0xFFFF) ∧
      stepFault { start 0xF065 with i := 0xFFF } = none) ∧
    (stepFault { start 0xD011 with i := 0x1000 } = some (.dataOutOfRange, 0x1000) ∧
      stepFault { start 0xD010 with i := 0xFFFF } = none) ∧
    (stepFault (withV (start 0xE09E) [(0, 0x10)]) = some (.keyIndexOutOfRange, 0x10) ∧
      stepFault (withV (start 0xE0A1) [(0, 0x0F)]) = none) := by
  refine ⟨?_, ?_, ?_, ?_, ?_, ?_, ?_, ?_⟩ <;> exact ⟨rfl, rfl⟩

theorem witness_FaultedCoreIsInert : faultedState.faulted = true := by decide

theorem witness_OnlyResetLeavesTheFaultedState : faultedState.faulted = true ∧
    Transaction.reset ∉ [.step 0xFFFF 7, .load [0x6A, 0x05], .step 0 0] := by decide

/-- One free entry left. -/
theorem witness_CallPushesReturnAddressAndJumps :
    ({ State.reset with sp := 15 } : State).sp.val < 16 ∧ 0 ≠ ({ State.reset with sp := 15 } : State).sp.val := by
  decide

/-- The first entry and the last. -/
theorem witness_ReturnPopsTheLastEntry :
    ({ State.reset with sp := 1 } : State).sp.val = 0 + 1 ∧
      ({ State.reset with sp := 16 } : State).sp.val = 15 + 1 := by decide

theorem witness_ReturnUndoesCall : ∃ t u : State,
    ({ State.reset with sp := 15 } : State).sp.val < 16 ∧
      exec (.call 0x300) { State.reset with sp := 15 } = .next t ∧ u.stack = t.stack ∧ u.sp = t.sp :=
  ⟨_, _, by decide, rfl, rfl, rfl⟩

/-- Each of the five instructions, with a destination other than `VF` and with `VF`. -/
theorem witness_FlagArithmeticWritesTheFlagLast :
    ((flagArithmetic (.addReg 0 1)).isSome ∧ (flagArithmetic (.subReg 15 1)).isSome ∧
      (flagArithmetic (.subnReg 0 15)).isSome ∧ (flagArithmetic (.shr 15 0)).isSome ∧
      (flagArithmetic (.shl 0 0)).isSome) ∧ (0 : Reg) ≠ Reg.vf := by decide

/-- A byte presented, and none. -/
theorem witness_RandomByteIsMasked :
    ({ State.reset with randIn := some 0xA7 } : State).randIn = some 0xA7 ∧ State.reset.randIn = none :=
  ⟨rfl, rfl⟩

/-- The last index in range. -/
theorem witness_BcdDigitsReconstructTheValue : ({ State.reset with i := 0xFFD } : State).i.toNat + 2 ≤ 0xFFF := by
  decide

theorem witness_BlockStoreWritesRegistersInOrder :
    ({ State.reset with i := 0xFF0 } : State).i.toNat + (15 : Reg).val ≤ 0xFFF ∧ (15 : Reg) ≤ 15 := by decide

theorem witness_BlockLoadReadsRegistersInOrder :
    ({ State.reset with i := 0xFFF } : State).i.toNat + (0 : Reg).val ≤ 0xFFF ∧ (0 : Reg) ≤ 0 := by decide

theorem witness_BlockStoreThenLoadRoundTrips : ∃ (t u : State),
    ({ State.reset with i := 0xFF0 } : State).i.toNat + (15 : Reg).val ≤ 0xFFF ∧
      exec (.ldMemVx 15) { State.reset with i := 0xFF0 } = .next t ∧ u.mem = t.mem ∧ u.i = 0xFF0 ∧
      (15 : Reg) ≤ 15 :=
  ⟨_, _, by decide, rfl, rfl, rfl, by decide⟩

theorem witness_FetchSeesStoredBytes : 1 ≤ (1 : Reg).val ∧
    ({ State.reset with i := 0xFFE } : State).i.toNat + (1 : Reg).val ≤ 0xFFF := by decide

/-- A sprite row 0x80 at 0xFFF. -/
def spriteState : State := withBytes { State.reset with i := 0xFFF } 0xFFF [0x80]

/-- No rows and `I` out of range; one row in range; a pixel the sprite sets and one it does not. -/
theorem witness_DrawXorsTheSpriteAndReportsCollision :
    ((0 : Nibble) = 0 ∨ ({ State.reset with i := 0xFFFF } : State).i.toNat + (0 : Nibble).toNat - 1 ≤ 0xFFF) ∧
    ((1 : Nibble) = 0 ∨ spriteState.i.toNat + (1 : Nibble).toNat - 1 ≤ 0xFFF) ∧
    SpriteSets spriteState 0 1 1 0 0 ∧ ¬ SpriteSets spriteState 0 1 1 63 31 := by
  refine ⟨by decide, by decide, ⟨0, 0, by decide, by decide, by decide, by decide, by decide⟩, ?_⟩
  rintro ⟨r, c, -, hc, hx, -⟩
  have h0 : (spriteState.getV 0).toNat = 0 := by decide
  omega

/-- A draw whose anchor registers are not `VF`. -/
theorem witness_DrawingTwiceRestoresTheScreen : ∃ t : State,
    ((1 : Nibble) = 0 ∨ spriteState.i.toNat + (1 : Nibble).toNat - 1 ≤ 0xFFF) ∧
      exec (.drw 0 1 1) spriteState = .next t ∧
      (t.getV 0).toNat % 64 = (spriteState.getV 0).toNat % 64 ∧
      (t.getV 1).toNat % 32 = (spriteState.getV 1).toNat % 32 :=
  ⟨_, by decide, rfl, by decide, by decide⟩

/-- The highest key number, pressed and not pressed. -/
theorem witness_KeySkipsTestTheKeysLevel :
    let s := withV { State.reset with keys := 0x8000 } [(0, 0x0F)]
    (s.getV 0).toNat ≤ 0xF ∧ s.keys.getLsbD (s.getV 0).toNat = true ∧
      ((withV State.reset [(0, 0x0F)]).getV 0).toNat ≤ 0xF ∧
      (withV State.reset [(0, 0x0F)]).keys.getLsbD ((withV State.reset [(0, 0x0F)]).getV 0).toNat = false := by
  decide

/-- No key; only key 15; key 0 among others. -/
theorem witness_KeyWaitLatchesTheLeastPressedKey :
    (∀ k, k < 16 → State.reset.keys.getLsbD k = false) ∧
    (15 < 16 ∧ (0x8000 : BitVec 16).getLsbD 15 = true ∧ ∀ j, j < 15 → (0x8000 : BitVec 16).getLsbD j = false) ∧
    (0 < 16 ∧ (0xFFFF : BitVec 16).getLsbD 0 = true ∧ ∀ j, j < 0 → (0xFFFF : BitVec 16).getLsbD j = false) := by
  decide

theorem witness_KeyWaitStallsWhileNoKeyIsPressed : RunsAt (start 0xF20A) (.ldVxK 2) ∧ (start 0xF20A).keys = 0 :=
  ⟨runsAt_start rfl, rfl⟩

/-- An instruction that stores, one that draws. -/
theorem witness_OnlyTheNamedInstructionsWriteEachState : ∃ t u : State,
    (State.reset.faulted = false ∧ exec (.ldMemVx 3) State.reset = .next t ∧ t.faulted = false) ∧
    (spriteState.faulted = false ∧ exec (.drw 0 1 1) spriteState = .next u ∧ u.faulted = false) :=
  ⟨_, _, ⟨rfl, rfl, rfl⟩, rfl, rfl, by decide⟩

end Sys2Proof.Tests
end

section
/-! SUPPORT. The statements of 30_encoding.md: the step at an unknown opcode. -/

namespace Sys2Proof.Machine
open Sys2Proof.Claims

/-- The step at an unknown opcode, whole: the advance of `pc` (R104) and the end of the step (R108), with no
execution between them (R89, R106). -/
theorem step_unknown {s : State} {r : Reject} (hf : s.faulted = false) (hp : s.pc.toNat ≤ 0xFFE)
    (hd : decodeOpcode s.opcodeAtPc = .error r) : step s = .next (s.advancePc.finishStep none) :=
  (step_eq_runOpcode hf hp).trans (runOpcode_unknown hd)

/-- Advancing `pc` and ending the step, with nothing executed, changes only `pc`, the timers and `FB_UPDATED`. -/
theorem frame_advancePc_finishStep_none (s : State) :
    Frame { delay := true, sound := true }
      { s with fbUpdated := (s.advancePc.finishStep none).fbUpdated } (s.advancePc.finishStep none) := by
  simp [Frame, SameRecord, State.getV]

/-- Settles O15: the step is the advance of `pc` and the tick of both timers. -/
theorem unknownOpcodeIsNoOp : Obligations.UnknownOpcodeIsNoOp := by
  unfold Obligations.UnknownOpcodeIsNoOp
  intro s r hf hp hd
  exact ⟨s.advancePc.finishStep none, step_unknown hf hp hd, State.advancePc_pc s, tick_toNat s.dt,
    tick_toNat s.st, frame_advancePc_finishStep_none s⟩

end Sys2Proof.Machine
end

section
/-! SUPPORT. The statements of 41_control_flow.md: the jump and the four skips. -/

namespace Sys2Proof.Machine
open Sys2Proof.Claims

/-! ### The opcode formats as the statements write them (30_encoding.md R81) -/

theorem toNat_formatNNN_eq_opNNN (g : BitVec 4) (nnn : Addr12) :
    (formatNNN g nnn).toNat = opNNN g.toNat nnn := toNat_formatNNN g nnn

theorem toNat_formatXKK_eq_opXKK (g : BitVec 4) (x : Reg) (kk : Byte) :
    (formatXKK g x kk).toNat = opXKK g.toNat x kk.toNat := toNat_formatXKK g x kk

theorem toNat_formatXYN_eq_opXYN (g : BitVec 4) (x y : Reg) (n : Nibble) :
    (formatXYN g x y n).toNat = opXYN g.toNat x y n.toNat := toNat_formatXYN g x y n

/-! ### What a jump and a skip do -/

@[simp] theorem addressOperand_toNat (nnn : Addr12) : (addressOperand nnn).toNat = nnn.toNat :=
  BitVec.toNat_setWidth_of_le (by decide)

/-- A jump changes only `pc`. -/
theorem frame_jump (s : State) (target : Word) : Frame {} s (s.jump target) := by
  simp [Frame, SameRecord]

/-- A skip, taken or not, changes only `pc`. -/
theorem frame_skipIf (s : State) (b : Bool) : Frame {} s (s.skipIf b) := by
  simp [Frame, SameRecord]

theorem exec_jp (nnn : Addr12) (s : State) : exec (.jp nnn) s = .next (s.jump (addressOperand nnn)) := rfl

theorem exec_seImm (x : Reg) (kk : Byte) (s : State) :
    exec (.seImm x kk) s = .next (s.skipIf (s.getV x == kk)) := rfl

theorem exec_sneImm (x : Reg) (kk : Byte) (s : State) :
    exec (.sneImm x kk) s = .next (s.skipIf (s.getV x != kk)) := rfl

theorem exec_seReg (x y : Reg) (s : State) :
    exec (.seReg x y) s = .next (s.skipIf (s.getV x == s.getV y)) := rfl

theorem exec_sneReg (x y : Reg) (s : State) :
    exec (.sneReg x y) s = .next (s.skipIf (s.getV x != s.getV y)) := rfl

/-- An instruction that is a skip on a test of `P` adds 2 to `pc` exactly when `P` holds, and changes nothing else. -/
theorem exec_skip {i : Instr} {s : State} {b : Bool} {P : Prop} [Decidable P]
    (he : exec i s = .next (s.skipIf b)) (hb : b = true ↔ P) :
    ∃ t, exec i s = .next t ∧ t.pc = (if P then s.pc + 2 else s.pc) ∧ Frame {} s t := by
  have hpc : (s.skipIf b).pc = if P then s.pc + 2 else s.pc := by simp only [State.skipIf_pc, hb]
  exact ⟨s.skipIf b, he, hpc, frame_skipIf s b⟩

/-! ### The statements -/

/-- Settles O27: execution is the jump to the zero-extended address, which has the same number. -/
theorem jumpGoesToItsAddress : Obligations.JumpGoesToItsAddress := by
  unfold Obligations.JumpGoesToItsAddress
  intro s nnn
  exact ⟨toNat_formatNNN_eq_opNNN 0x1 nnn, s.jump (addressOperand nnn), exec_jp nnn s,
    addressOperand_toNat nnn, frame_jump s _⟩

/-- Settles O29: each skip is `exec_skip` at its own test. -/
theorem skipsAdvanceByTwoWhenTheirConditionHolds : Obligations.SkipsAdvanceByTwoWhenTheirConditionHolds := by
  unfold Obligations.SkipsAdvanceByTwoWhenTheirConditionHolds
  intro s x y kk
  refine ⟨⟨?_, ?_, ?_, ?_⟩, ?_, ?_, ?_, ?_⟩
  · exact toNat_formatXKK_eq_opXKK 0x3 x kk
  · exact toNat_formatXKK_eq_opXKK 0x4 x kk
  · exact toNat_formatXYN_eq_opXYN 0x5 x y 0x0
  · exact toNat_formatXYN_eq_opXYN 0x9 x y 0x0
  · exact exec_skip (exec_seImm x kk s) beq_iff_eq
  · exact exec_skip (exec_sneImm x kk s) bne_iff_ne
  · exact exec_skip (exec_seReg x y s) beq_iff_eq
  · exact exec_skip (exec_sneReg x y s) bne_iff_ne

end Sys2Proof.Machine
end

section
/-! SUPPORT. The statements of 42_alu.md, with `Fx29` of 43_memory_block.md: loads, arithmetic and logic, and the
writers of `I`. -/

namespace Sys2Proof.Machine
open Sys2Proof.Claims

/-! ### What a write of a register, of a result with its flag, and of `I` changes -/

/-- A register write changes only that register. -/
theorem frame_setV (s : State) (x : Reg) (b : Byte) : Frame { regs := [x] } s (s.setV x b) := by
  have hother : ∀ r, r ∉ [x] → (s.setV x b).getV r = s.getV r := by
    intro r hr
    exact State.getV_setV_other s b (List.ne_of_not_mem_cons hr)
  exact ⟨hother, by simp [SameRecord]⟩

@[simp] theorem setVThenFlag_pc (s : State) (x : Reg) (result flag : Byte) :
    (s.setVThenFlag x result flag).pc = s.pc := rfl

/-- Writing a result and its flag changes only the destination and `VF`. -/
theorem frame_setVThenFlag (s : State) (x : Reg) (result flag : Byte) :
    Frame { regs := [x, Reg.vf] } s (s.setVThenFlag x result flag) := by
  have hother : ∀ r, r ∉ [x, Reg.vf] → (s.setVThenFlag x result flag).getV r = s.getV r := by
    intro r hr
    simp only [List.mem_cons, List.not_mem_nil, or_false, not_or] at hr
    rw [State.getV_setVThenFlag, if_neg hr.2, if_neg hr.1]
  exact ⟨hother, by simp [SameRecord, State.setVThenFlag]⟩

/-- A write of `I` changes only `I`. -/
theorem frame_setIndex (s : State) (w : Word) : Frame { index := true } s { s with i := w } := by
  simp [Frame, SameRecord, State.getV]

/-! ### Instructions by what they write -/

section
variable {ins : Instr} {s : State} {x : Reg}

/-- An instruction whose execution is a register write completes with that value and changes nothing else. -/
theorem exec_setV {b : Byte} (he : exec ins s = .next (s.setV x b)) :
    ∃ t, exec ins s = .next t ∧ t.getV x = b ∧ t.pc = s.pc ∧ Frame { regs := [x] } s t :=
  ⟨s.setV x b, he, State.getV_setV_same s x b, State.setV_pc s x b, frame_setV s x b⟩

/-- The same, for a value given bit by bit. -/
theorem exec_setV_bits {b : Byte} {bit : Nat → Bool} (he : exec ins s = .next (s.setV x b))
    (hbit : ∀ k, b.getLsbD k = bit k) :
    ∃ t, exec ins s = .next t ∧ t.pc = s.pc ∧ Frame { regs := [x] } s t ∧
      ∀ k, k < 8 → (t.getV x).getLsbD k = bit k := by
  obtain ⟨t, ht, hval, hpc, hframe⟩ := exec_setV he
  exact ⟨t, ht, hpc, hframe, fun k _ => hval ▸ hbit k⟩

/-- An instruction whose execution is a result and its flag leaves the flag in `VF`, and the result in `V[x]` unless
that is `VF` (R149). -/
theorem exec_setVThenFlag {result flag : Byte} {r f : Nat}
    (he : exec ins s = .next (s.setVThenFlag x result flag)) (hr : result.toNat = r) (hf : flag.toNat = f) :
    ∃ t, exec ins s = .next t ∧ (t.getV Reg.vf).toNat = f ∧ (x ≠ Reg.vf → (t.getV x).toNat = r) ∧
      t.pc = s.pc ∧ Frame { regs := [x, Reg.vf] } s t := by
  refine ⟨s.setVThenFlag x result flag, he, ?_, ?_, setVThenFlag_pc s x result flag,
    frame_setVThenFlag s x result flag⟩
  · rw [State.getV_setVThenFlag, if_pos rfl, hf]
  · intro hx
    rw [State.getV_setVThenFlag, if_neg hx, if_pos rfl, hr]

/-- An instruction whose execution is a write of `I` completes with that value and changes nothing else. -/
theorem exec_setIndex {w : Word} {n : Nat} (he : exec ins s = .next { s with i := w }) (hn : w.toNat = n) :
    ∃ t, exec ins s = .next t ∧ t.i.toNat = n ∧ t.pc = s.pc ∧ Frame { index := true } s t :=
  ⟨{ s with i := w }, he, hn, rfl, frame_setIndex s w⟩

end

/-! ### What each instruction executes as -/

section
variable (x y : Reg) (kk : Byte) (nnn : Addr12) (s : State)

theorem exec_ldImm : exec (.ldImm x kk) s = .next (s.setV x kk) := rfl

theorem exec_addImm : exec (.addImm x kk) s = .next (s.setV x (s.getV x + kk)) := rfl

theorem exec_ldReg : exec (.ldReg x y) s = .next (s.setV x (s.getV y)) := rfl

theorem exec_orReg : exec (.orReg x y) s = .next (s.setV x (s.getV x ||| s.getV y)) := rfl

theorem exec_andReg : exec (.andReg x y) s = .next (s.setV x (s.getV x &&& s.getV y)) := rfl

theorem exec_xorReg : exec (.xorReg x y) s = .next (s.setV x (s.getV x ^^^ s.getV y)) := rfl

theorem exec_addReg : exec (.addReg x y) s =
    .next (s.setVThenFlag x (s.getV x + s.getV y) (carryFlag (s.getV x) (s.getV y))) := rfl

theorem exec_subReg : exec (.subReg x y) s =
    .next (s.setVThenFlag x (s.getV x - s.getV y) (greaterFlag (s.getV x) (s.getV y))) := rfl

theorem exec_subnReg : exec (.subnReg x y) s =
    .next (s.setVThenFlag x (s.getV y - s.getV x) (greaterFlag (s.getV y) (s.getV x))) := rfl

theorem exec_shr : exec (.shr x y) s = .next (s.setVThenFlag x (s.getV x >>> 1) (shrFlag (s.getV x))) := rfl

theorem exec_shl : exec (.shl x y) s = .next (s.setVThenFlag x (s.getV x <<< 1) (shlFlag (s.getV x))) := rfl

theorem exec_ldI : exec (.ldI nnn) s = .next { s with i := addressOperand nnn } := rfl

theorem exec_addI : exec (.addI x) s = .next { s with i := s.i + s.wordV x } := rfl

theorem exec_ldF : exec (.ldF x) s =
    .next { s with i := BitVec.ofNat 16 (Config.fontBase + Config.fontGlyphBytes * (s.getV x).toNat) } := rfl

end

/-! ### Results and flags as numbers -/

theorem carryFlag_toNat (a b : Byte) : (carryFlag a b).toNat = if a.toNat + b.toNat > 255 then 1 else 0 := by
  rw [carryFlag_eq]
  split <;> rfl

theorem greaterFlag_toNat (a b : Byte) : (greaterFlag a b).toNat = if a.toNat > b.toNat then 1 else 0 := by
  rw [greaterFlag_eq]
  split <;> rfl

/-- A byte difference with the borrow added before the subtraction (R147, R148). -/
theorem byte_sub_toNat (a b : Byte) : (a - b).toNat = (a.toNat + 256 - b.toNat) % 256 := by
  have hb : b.toNat < 256 := b.isLt
  rw [BitVec.toNat_sub]
  omega

theorem byte_shiftRight_one_toNat (a : Byte) : (a >>> 1).toNat = a.toNat / 2 := by
  rw [BitVec.toNat_ushiftRight, Nat.shiftRight_eq_div_pow, Nat.pow_one]

theorem byte_shiftLeft_one_toNat (a : Byte) : (a <<< 1).toNat = a.toNat * 2 % 256 := by
  rw [BitVec.toNat_shiftLeft, Nat.shiftLeft_eq, Nat.pow_one]

@[simp] theorem wordV_toNat (s : State) (x : Reg) : (s.wordV x).toNat = (s.getV x).toNat :=
  BitVec.toNat_setWidth_of_le (by decide)

/-- The glyph address fits 16 bits for every value of `V[x]`, digit or not (R173). -/
theorem glyphAddress_toNat (b : Byte) :
    (BitVec.ofNat 16 (Config.fontBase + Config.fontGlyphBytes * b.toNat)).toNat = 0x050 + 5 * b.toNat := by
  have hb : b.toNat < 256 := b.isLt
  simp only [Config.fontBase, Config.fontGlyphBytes, BitVec.toNat_ofNat]
  omega

/-! ### The statements -/

/-- Settles O35: each of the five writes its result and then its flag, both taken from the old operands. -/
theorem flagArithmeticWritesTheFlagLast : Obligations.FlagArithmeticWritesTheFlagLast := by
  unfold Obligations.FlagArithmeticWritesTheFlagLast
  intro s ins low x y result flag h
  match ins, h with
  | .addReg x y, rfl =>
    exact ⟨toNat_formatXYN_eq_opXYN 0x8 x y 0x4,
      exec_setVThenFlag (exec_addReg x y s) (BitVec.toNat_add _ _) (carryFlag_toNat _ _)⟩
  | .subReg x y, rfl =>
    exact ⟨toNat_formatXYN_eq_opXYN 0x8 x y 0x5,
      exec_setVThenFlag (exec_subReg x y s) (byte_sub_toNat _ _) (greaterFlag_toNat _ _)⟩
  | .subnReg x y, rfl =>
    exact ⟨toNat_formatXYN_eq_opXYN 0x8 x y 0x7,
      exec_setVThenFlag (exec_subnReg x y s) (byte_sub_toNat _ _) (greaterFlag_toNat _ _)⟩
  | .shr x y, rfl =>
    exact ⟨toNat_formatXYN_eq_opXYN 0x8 x y 0x6,
      exec_setVThenFlag (exec_shr x y s) (byte_shiftRight_one_toNat _) (shrFlag_toNat _)⟩
  | .shl x y, rfl =>
    exact ⟨toNat_formatXYN_eq_opXYN 0x8 x y 0xE,
      exec_setVThenFlag (exec_shl x y s) (byte_shiftLeft_one_toNat _) (shlFlag_toNat _)⟩

/-- Settles O33: each of the five is one register write; the logic is bitwise. -/
theorem loadsCopiesAndBitwiseLogic : Obligations.LoadsCopiesAndBitwiseLogic := by
  unfold Obligations.LoadsCopiesAndBitwiseLogic
  intro s x y kk
  refine ⟨⟨?_, ?_, ?_, ?_, ?_⟩, ?_, ?_, ?_, ?_, ?_⟩
  · exact toNat_formatXKK_eq_opXKK 0x6 x kk
  · exact toNat_formatXYN_eq_opXYN 0x8 x y 0x0
  · exact toNat_formatXYN_eq_opXYN 0x8 x y 0x1
  · exact toNat_formatXYN_eq_opXYN 0x8 x y 0x2
  · exact toNat_formatXYN_eq_opXYN 0x8 x y 0x3
  · exact exec_setV (exec_ldImm x kk s)
  · exact exec_setV (exec_ldReg x y s)
  · exact exec_setV_bits (exec_orReg x y s) fun _ => BitVec.getLsbD_or
  · exact exec_setV_bits (exec_andReg x y s) fun _ => BitVec.getLsbD_and
  · exact exec_setV_bits (exec_xorReg x y s) fun _ => BitVec.getLsbD_xor

/-- Settles O34: the one register written is the destination, with the wrapped sum. -/
theorem addImmediateWrapsWithoutFlag : Obligations.AddImmediateWrapsWithoutFlag := by
  unfold Obligations.AddImmediateWrapsWithoutFlag
  intro s x kk
  obtain ⟨t, ht, hval, hpc, hframe⟩ := exec_setV (exec_addImm x kk s)
  have hsum : (t.getV x).toNat = ((s.getV x).toNat + kk.toNat) % 256 := by rw [hval, BitVec.toNat_add]
  exact ⟨toNat_formatXKK_eq_opXKK 0x7 x kk, t, ht, hsum, hpc, hframe⟩

/-- Settles O36: each of the three is one write of `I`; only the sum of `Fx1E` can wrap. -/
theorem indexRegisterWriters : Obligations.IndexRegisterWriters := by
  unfold Obligations.IndexRegisterWriters
  intro s x nnn
  have hsum : (s.i + s.wordV x).toNat = (s.i.toNat + (s.getV x).toNat) % 65536 := by
    rw [BitVec.toNat_add, wordV_toNat]
  refine ⟨⟨?_, ?_, ?_⟩, ?_, ?_, ?_⟩
  · exact toNat_formatNNN_eq_opNNN 0xA nnn
  · exact toNat_formatXKK_eq_opXKK 0xF x 0x1E
  · exact toNat_formatXKK_eq_opXKK 0xF x 0x29
  · exact exec_setIndex (exec_ldI nnn s) (addressOperand_toNat nnn)
  · exact exec_setIndex (exec_addI x s) hsum
  · exact exec_setIndex (exec_ldF x s) (glyphAddress_toNat (s.getV x))

end Sys2Proof.Machine
end

section
/-! SUPPORT. The statements of 45_keypad_timer.md: the key wait. -/

namespace Sys2Proof.Machine
open Sys2Proof.Claims

/-- Going back on the instruction changes only `pc`. -/
theorem frame_rewindPc (s : State) : Frame {} s s.rewindPc := by
  simp [Frame, SameRecord]

section
variable {s : State} (x : Reg)

theorem exec_ldVxK : exec (.ldVxK x) s = execLdVxK x s := rfl

/-- With no key pressed the key wait goes back on itself. -/
theorem exec_ldVxK_of_none (h : s.firstPressed = none) : exec (.ldVxK x) s = .next s.rewindPc := by
  rw [exec_ldVxK, execLdVxK, h]

/-- With a key pressed the key wait is the write of the first one's number. -/
theorem exec_ldVxK_of_some {k : Nat} (h : s.firstPressed = some k) :
    exec (.ldVxK x) s = .next (s.setV x (BitVec.ofNat 8 k)) := by
  rw [exec_ldVxK, execLdVxK, h]

end

/-- A key number fits the register it is latched into. -/
theorem keyNumber_toNat {k : Nat} (hk : k < 16) : (BitVec.ofNat 8 k).toNat = k :=
  BitVec.toNat_ofNat k 8 |>.trans (Nat.mod_eq_of_lt (by omega))

/-- Settles O47: the scan finds no key, or the least pressed one; each of the two clauses excludes the other case. -/
theorem keyWaitLatchesTheLeastPressedKey : Obligations.KeyWaitLatchesTheLeastPressedKey := by
  unfold Obligations.KeyWaitLatchesTheLeastPressedKey
  intro s x
  refine ⟨toNat_formatXKK_eq_opXKK 0xF x 0x0A, ?_⟩
  cases hscan : s.firstPressed with
  | none =>
    refine ⟨s.rewindPc, exec_ldVxK_of_none x hscan, fun _ => ⟨State.rewindPc_pc s, frame_rewindPc s⟩, ?_⟩
    intro k hk hpressed _
    have hclear : s.keys.getLsbD k = false := (firstPressed_none_iff s).mp hscan k hk
    exact absurd hpressed (ne_true_of_eq_false hclear)
  | some first =>
    obtain ⟨hfirst, hfirstPressed, -⟩ := (firstPressed_some_iff s first).mp hscan
    obtain ⟨t, ht, hval, hpc, hframe⟩ := exec_setV (exec_ldVxK_of_some x hscan)
    refine ⟨t, ht, fun hnone => ?_, fun k hk hpressed hleast => ?_⟩
    · exact absurd hfirstPressed (ne_true_of_eq_false (hnone first hfirst))
    · have hk_first : s.firstPressed = some k := (firstPressed_some_iff s k).mpr ⟨hk, hpressed, hleast⟩
      obtain rfl : first = k := Option.some.inj (hscan.symm.trans hk_first)
      exact ⟨hval ▸ keyNumber_toNat hk, hpc, hframe⟩

end Sys2Proof.Machine
end

section
/-! SUPPORT. The statements of 70_reset_and_hazards.md: the state after reset. -/

namespace Sys2Proof.Machine

/-- R37: byte `b` of the font region holds `FONT[b]` after reset. -/
theorem Memory.resetByte_font {b : Nat} (hb : b < Config.fontSize) :
    Memory.resetByte (Config.fontBase + b) = Config.fontByte b := by
  have hinside : Config.fontBase ≤ Config.fontBase + b ∧
      Config.fontBase + b < Config.fontBase + Config.fontSize :=
    ⟨Nat.le_add_right _ _, Nat.add_lt_add_left hb _⟩
  rw [Memory.resetByte, if_pos hinside, Nat.add_sub_cancel_left]

/-- R36: an address outside the font region holds zero after reset. -/
theorem Memory.resetByte_outside_font {a : Nat}
    (ha : a < Config.fontBase ∨ Config.fontBase + Config.fontSize ≤ a) : Memory.resetByte a = 0 :=
  if_neg fun ⟨hlow, hhigh⟩ => ha.elim (Nat.not_lt.mpr hlow) (Nat.not_le.mpr hhigh)

namespace State

@[simp] theorem reset_mem_read (a : Nat) : State.reset.mem.read a = Memory.resetByte a := Memory.read_nil a

@[simp] theorem reset_getV (r : Reg) : State.reset.getV r = 0 := Vector.getElem_replicate r.isLt

theorem reset_stack_getElem? {j : Nat} (hj : j < Config.stackDepth) : State.reset.stack[j]? = some 0 :=
  Vector.getElem?_replicate_of_lt hj

/-- R250: the framebuffer after reset is the cleared one. -/
@[simp] theorem reset_fb : State.reset.fb = Framebuffer.clear := rfl

end State

/-- Settles O1: the registers, the stack and the framebuffer are replicated zeros, memory lists nothing and so reads
as the reset contents, inside and outside the font; every other field is given its value by `State.reset`. -/
theorem resetGivesSpecValues : Obligations.ResetGivesSpecValues := by
  unfold Obligations.ResetGivesSpecValues
  have hfont (b : Nat) (hb : b < 80) : State.reset.mem.read (0x050 + b) = Config.fontByte b :=
    (State.reset_mem_read _).trans (Memory.resetByte_font hb)
  have hzero (a : Nat) (ha : a < 0x050 ∨ 0x0A0 ≤ a) : State.reset.mem.read a = 0 :=
    (State.reset_mem_read a).trans (Memory.resetByte_outside_font ha)
  have hpixels (px py : Nat) : State.reset.fb.pixel px py = false :=
    State.reset_fb ▸ pixel_clear px py
  exact ⟨State.reset_getV, rfl, rfl, rfl, fun _ => State.reset_stack_getElem?, rfl, rfl, hfont, hzero, hpixels,
    rfl, rfl, rfl, rfl, rfl, rfl, rfl⟩

end Sys2Proof.Machine
end

section
/-! SUPPORT. The statements of 30_encoding.md: decoder, encoder and the rows of the opcode list. -/

namespace Sys2Proof

/-! ### Decoding an encoded instruction -/

/-- The group map reads every instruction back from its opcode, format by format (R81, R85). -/
@[simp] theorem decodeOpcode_encode (i : Instr) : decodeOpcode (encode i) = .ok i := by
  cases i with
  | cls | ret => rfl
  | jp | call | ldI | jpV0 => simp [encode, decodeOpcode]
  | seImm | sneImm | ldImm | addImm | rnd => simp [encode, decodeOpcode]
  | seReg | sneReg | drw => simp [encode, decodeOpcode]
  | ldReg | orReg | andReg | xorReg | addReg | subReg | shr | subnReg | shl =>
    simp [encode, decodeOpcode, decodeGroup8]
  | skp | sknp => simp [encode, decodeOpcode, decodeGroupE]
  | ldVxDt | ldVxK | ldDtVx | ldStVx | addI | ldF | ldB | ldMemVx | ldVxMem =>
    simp [encode, decodeOpcode, decodeGroupF]

/-- Settles O9: the two bytes put together are the opcode, and the group map reads it back. -/
theorem decodeUndoesEncode : Obligations.DecodeUndoesEncode := by
  unfold Obligations.DecodeUndoesEncode
  intro i rest
  simp [encodeBytes, decode, Except.map]

/-! ### An opcode whose group and fixed digits are known is laid out in its format -/

section
variable {op : Opcode}

theorem formatNNN_of_group {g : BitVec 4} (hg : (opGroup op).toNat = g.toNat) : formatNNN g (opNnn op) = op := by
  rw [← BitVec.eq_of_toNat_eq hg, formatNNN_fields]

theorem formatXKK_of_group {g : BitVec 4} (hg : (opGroup op).toNat = g.toNat) :
    formatXKK g (opX op) (opKk op) = op := by
  rw [← BitVec.eq_of_toNat_eq hg, formatXKK_fields]

theorem formatXKK_of_group_byte {g : BitVec 4} {kk : Byte} (hg : (opGroup op).toNat = g.toNat)
    (hk : (opKk op).toNat = kk.toNat) : formatXKK g (opX op) kk = op := by
  rw [← BitVec.eq_of_toNat_eq hk, formatXKK_of_group hg]

theorem formatXYN_of_group {g : BitVec 4} (hg : (opGroup op).toNat = g.toNat) :
    formatXYN g (opX op) (opY op) (opN op) = op := by
  rw [← BitVec.eq_of_toNat_eq hg, formatXYN_fields]

theorem formatXYN_of_group_digit {g : BitVec 4} {n : Nibble} (hg : (opGroup op).toNat = g.toNat)
    (hn : (opN op).toNat = n.toNat) : formatXYN g (opX op) (opY op) n = op := by
  rw [← BitVec.eq_of_toNat_eq hn, formatXYN_of_group hg]

/-! ### Encoding a decoded instruction, group by group -/

theorem encode_of_decodeGroup0 {i : Instr} (h : decodeGroup0 op = .ok i) : encode i = op := by
  unfold decodeGroup0 at h
  split at h
  · cases h; exact (‹op = 0x00E0#16›).symm
  · split at h
    · cases h; exact (‹op = 0x00EE#16›).symm
    · cases h

theorem encode_of_decodeGroup8 {i : Instr} (hg : (opGroup op).toNat = 0x8) (h : decodeGroup8 op = .ok i) :
    encode i = op := by
  unfold decodeGroup8 at h
  split at h <;> cases h <;> exact formatXYN_of_group_digit hg ‹_›

theorem encode_of_decodeGroupE {i : Instr} (hg : (opGroup op).toNat = 0xE) (h : decodeGroupE op = .ok i) :
    encode i = op := by
  unfold decodeGroupE at h
  split at h <;> cases h <;> exact formatXKK_of_group_byte hg ‹_›

theorem encode_of_decodeGroupF {i : Instr} (hg : (opGroup op).toNat = 0xF) (h : decodeGroupF op = .ok i) :
    encode i = op := by
  unfold decodeGroupF at h
  split at h <;> cases h <;> exact formatXKK_of_group_byte hg ‹_›

/-- Groups 5 and 9, with their fixed low digit 0. -/
theorem eq_of_lowDigitZero {i j : Instr} {r : Reject}
    (h : (if opN op = 0#4 then .ok j else .error r : Except Reject Instr) = .ok i) :
    (opN op).toNat = 0 ∧ i = j := by
  split at h
  · cases h; exact ⟨congrArg BitVec.toNat ‹_›, rfl⟩
  · cases h

theorem encode_of_decodeOpcode {i : Instr} (h : decodeOpcode op = .ok i) : encode i = op := by
  unfold decodeOpcode at h
  split at h
  case h_1 => exact encode_of_decodeGroup0 h
  case h_6 hg =>
    obtain ⟨hn, rfl⟩ := eq_of_lowDigitZero h
    exact formatXYN_of_group_digit hg hn
  case h_9 hg => exact encode_of_decodeGroup8 hg h
  case h_10 hg =>
    obtain ⟨hn, rfl⟩ := eq_of_lowDigitZero h
    exact formatXYN_of_group_digit hg hn
  case h_14 hg => cases h; exact formatXYN_of_group hg
  case h_15 hg => exact encode_of_decodeGroupE hg h
  case h_16 hg => exact encode_of_decodeGroupF hg h
  case h_17 => cases h
  case h_2 hg | h_3 hg | h_11 hg | h_12 hg => cases h; exact formatNNN_of_group hg
  case h_4 hg | h_5 hg | h_7 hg | h_8 hg | h_13 hg => cases h; exact formatXKK_of_group hg

end

/-- Settles O10: each group's arm puts the opcode's own fields back into its format. -/
theorem encodeUndoesDecode : Obligations.EncodeUndoesDecode := by
  unfold Obligations.EncodeUndoesDecode
  exact fun _ _ => encode_of_decodeOpcode

/-! ### The rows of R88 -/

/-- Every instruction's opcode matches the instruction's row. -/
theorem rowOf_covers_encode : ∀ i : Instr, (rowOf i).covers (encode i) = true
  | .cls => Laws.RowPattern.cls
  | .ret => Laws.RowPattern.ret
  | .jp nnn => Laws.RowPattern.jp nnn
  | .call nnn => Laws.RowPattern.call nnn
  | .seImm x kk => Laws.RowPattern.seImm x kk
  | .sneImm x kk => Laws.RowPattern.sneImm x kk
  | .seReg x y => Laws.RowPattern.seReg x y
  | .ldImm x kk => Laws.RowPattern.ldImm x kk
  | .addImm x kk => Laws.RowPattern.addImm x kk
  | .ldReg x y => Laws.RowPattern.ldReg x y
  | .orReg x y => Laws.RowPattern.orReg x y
  | .andReg x y => Laws.RowPattern.andReg x y
  | .xorReg x y => Laws.RowPattern.xorReg x y
  | .addReg x y => Laws.RowPattern.addReg x y
  | .subReg x y => Laws.RowPattern.subReg x y
  | .shr x y => Laws.RowPattern.shr x y
  | .subnReg x y => Laws.RowPattern.subnReg x y
  | .shl x y => Laws.RowPattern.shl x y
  | .sneReg x y => Laws.RowPattern.sneReg x y
  | .ldI nnn => Laws.RowPattern.ldI nnn
  | .jpV0 nnn => Laws.RowPattern.jpV0 nnn
  | .rnd x kk => Laws.RowPattern.rnd x kk
  | .drw x y n => Laws.RowPattern.drw x y n
  | .skp x => Laws.RowPattern.skp x
  | .sknp x => Laws.RowPattern.sknp x
  | .ldVxDt x => Laws.RowPattern.ldVxDt x
  | .ldVxK x => Laws.RowPattern.ldVxK x
  | .ldDtVx x => Laws.RowPattern.ldDtVx x
  | .ldStVx x => Laws.RowPattern.ldStVx x
  | .addI x => Laws.RowPattern.addI x
  | .ldF x => Laws.RowPattern.ldF x
  | .ldB x => Laws.RowPattern.ldB x
  | .ldMemVx x => Laws.RowPattern.ldMemVx x
  | .ldVxMem x => Laws.RowPattern.ldVxMem x

section
variable {op : Opcode}

/-- A whole-opcode row matches one opcode. -/
theorem eq_of_covers_whole {p : Opcode} (h : Row.covers ⟨0xFFFF, p⟩ op = true) : p = op := by
  have hall : op &&& 0xFFFF#16 = op := BitVec.and_allOnes
  exact (hall.symm.trans (beq_iff_eq.mp h)).symm

theorem opGroup_of_covers_group {g : BitVec 4} (h : Row.covers ⟨0xF000, formatNNN g 0⟩ op = true) :
    (opGroup op).toNat = g.toNat := by
  have hm : formatNNN (opGroup op) 0 = formatNNN g 0 := (and_maskF000 op).symm.trans (beq_iff_eq.mp h)
  simpa using congrArg (BitVec.toNat ∘ opGroup) hm

/-- An opcode that matches a row of group, register pair and low digit is laid out so. -/
theorem format_of_covers_digit {g : BitVec 4} {n : Nibble}
    (h : Row.covers ⟨0xF00F, formatXYN g 0 0 n⟩ op = true) : formatXYN g (opX op) (opY op) n = op := by
  have hm : formatXYN (opGroup op) 0 0 (opN op) = formatXYN g 0 0 n :=
    (and_maskF00F op).symm.trans (beq_iff_eq.mp h)
  exact formatXYN_of_group_digit (by simpa using congrArg (BitVec.toNat ∘ opGroup) hm)
    (by simpa using congrArg (BitVec.toNat ∘ opN) hm)

/-- An opcode that matches a row of group, register and low byte is laid out so. -/
theorem format_of_covers_byte {g : BitVec 4} {kk : Byte}
    (h : Row.covers ⟨0xF0FF, formatXKK g 0 kk⟩ op = true) : formatXKK g (opX op) kk = op := by
  have hm : formatXKK (opGroup op) 0 (opKk op) = formatXKK g 0 kk :=
    (and_maskF0FF op).symm.trans (beq_iff_eq.mp h)
  exact formatXKK_of_group_byte (by simpa using congrArg (BitVec.toNat ∘ opGroup) hm)
    (by simpa using congrArg (BitVec.toNat ∘ opKk) hm)

/-- An opcode that matches a row is the encoding of an instruction of that row: its own fields are the operands. -/
theorem exists_encode_of_covers : ∀ i : Instr, (rowOf i).covers op = true →
    ∃ j, encode j = op ∧ rowOf j = rowOf i
  | .cls, h => ⟨.cls, eq_of_covers_whole h, rfl⟩
  | .ret, h => ⟨.ret, eq_of_covers_whole h, rfl⟩
  | .jp _, h => ⟨.jp (opNnn op), formatNNN_of_group (opGroup_of_covers_group (g := 0x1) h), rfl⟩
  | .call _, h => ⟨.call (opNnn op), formatNNN_of_group (opGroup_of_covers_group (g := 0x2) h), rfl⟩
  | .seImm _ _, h =>
    ⟨.seImm (opX op) (opKk op), formatXKK_of_group (opGroup_of_covers_group (g := 0x3) h), rfl⟩
  | .sneImm _ _, h =>
    ⟨.sneImm (opX op) (opKk op), formatXKK_of_group (opGroup_of_covers_group (g := 0x4) h), rfl⟩
  | .seReg _ _, h => ⟨.seReg (opX op) (opY op), format_of_covers_digit (g := 0x5) (n := 0x0) h, rfl⟩
  | .ldImm _ _, h =>
    ⟨.ldImm (opX op) (opKk op), formatXKK_of_group (opGroup_of_covers_group (g := 0x6) h), rfl⟩
  | .addImm _ _, h =>
    ⟨.addImm (opX op) (opKk op), formatXKK_of_group (opGroup_of_covers_group (g := 0x7) h), rfl⟩
  | .ldReg _ _, h => ⟨.ldReg (opX op) (opY op), format_of_covers_digit (g := 0x8) (n := 0x0) h, rfl⟩
  | .orReg _ _, h => ⟨.orReg (opX op) (opY op), format_of_covers_digit (g := 0x8) (n := 0x1) h, rfl⟩
  | .andReg _ _, h => ⟨.andReg (opX op) (opY op), format_of_covers_digit (g := 0x8) (n := 0x2) h, rfl⟩
  | .xorReg _ _, h => ⟨.xorReg (opX op) (opY op), format_of_covers_digit (g := 0x8) (n := 0x3) h, rfl⟩
  | .addReg _ _, h => ⟨.addReg (opX op) (opY op), format_of_covers_digit (g := 0x8) (n := 0x4) h, rfl⟩
  | .subReg _ _, h => ⟨.subReg (opX op) (opY op), format_of_covers_digit (g := 0x8) (n := 0x5) h, rfl⟩
  | .shr _ _, h => ⟨.shr (opX op) (opY op), format_of_covers_digit (g := 0x8) (n := 0x6) h, rfl⟩
  | .subnReg _ _, h => ⟨.subnReg (opX op) (opY op), format_of_covers_digit (g := 0x8) (n := 0x7) h, rfl⟩
  | .shl _ _, h => ⟨.shl (opX op) (opY op), format_of_covers_digit (g := 0x8) (n := 0xE) h, rfl⟩
  | .sneReg _ _, h => ⟨.sneReg (opX op) (opY op), format_of_covers_digit (g := 0x9) (n := 0x0) h, rfl⟩
  | .ldI _, h => ⟨.ldI (opNnn op), formatNNN_of_group (opGroup_of_covers_group (g := 0xA) h), rfl⟩
  | .jpV0 _, h => ⟨.jpV0 (opNnn op), formatNNN_of_group (opGroup_of_covers_group (g := 0xB) h), rfl⟩
  | .rnd _ _, h => ⟨.rnd (opX op) (opKk op), formatXKK_of_group (opGroup_of_covers_group (g := 0xC) h), rfl⟩
  | .drw _ _ _, h =>
    ⟨.drw (opX op) (opY op) (opN op), formatXYN_of_group (opGroup_of_covers_group (g := 0xD) h), rfl⟩
  | .skp _, h => ⟨.skp (opX op), format_of_covers_byte (g := 0xE) (kk := 0x9E) h, rfl⟩
  | .sknp _, h => ⟨.sknp (opX op), format_of_covers_byte (g := 0xE) (kk := 0xA1) h, rfl⟩
  | .ldVxDt _, h => ⟨.ldVxDt (opX op), format_of_covers_byte (g := 0xF) (kk := 0x07) h, rfl⟩
  | .ldVxK _, h => ⟨.ldVxK (opX op), format_of_covers_byte (g := 0xF) (kk := 0x0A) h, rfl⟩
  | .ldDtVx _, h => ⟨.ldDtVx (opX op), format_of_covers_byte (g := 0xF) (kk := 0x15) h, rfl⟩
  | .ldStVx _, h => ⟨.ldStVx (opX op), format_of_covers_byte (g := 0xF) (kk := 0x18) h, rfl⟩
  | .addI _, h => ⟨.addI (opX op), format_of_covers_byte (g := 0xF) (kk := 0x1E) h, rfl⟩
  | .ldF _, h => ⟨.ldF (opX op), format_of_covers_byte (g := 0xF) (kk := 0x29) h, rfl⟩
  | .ldB _, h => ⟨.ldB (opX op), format_of_covers_byte (g := 0xF) (kk := 0x33) h, rfl⟩
  | .ldMemVx _, h => ⟨.ldMemVx (opX op), format_of_covers_byte (g := 0xF) (kk := 0x55) h, rfl⟩
  | .ldVxMem _, h => ⟨.ldVxMem (opX op), format_of_covers_byte (g := 0xF) (kk := 0x65) h, rfl⟩

end

/-- Settles O11: a decoded opcode is the encoding of its instruction, which matches its row; an opcode that matches a
row is the encoding of an instruction of that row, which is decoded. -/
theorem decoderFollowsMaskAndMatchList : Obligations.DecoderFollowsMaskAndMatchList := by
  unfold Obligations.DecoderFollowsMaskAndMatchList
  refine fun op => ⟨fun i hi => ?_, fun i hi => ?_⟩
  · rw [← encode_of_decodeOpcode hi]
    exact rowOf_covers_encode i
  · obtain ⟨j, rfl, hrow⟩ := exists_encode_of_covers i hi
    exact ⟨j, decodeOpcode_encode j, hrow⟩

/-! ### The unknown opcodes (R90) -/

section
variable {op : Opcode}

theorem decodeGroup0_error_iff :
    (∃ r, decodeGroup0 op = .error r) ↔ op.toNat ≠ 0x00E0 ∧ op.toNat ≠ 0x00EE := by
  have h1 : op = 0x00E0#16 ↔ op.toNat = 0x00E0 := by rw [← BitVec.toNat_inj]; rfl
  have h2 : op = 0x00EE#16 ↔ op.toNat = 0x00EE := by rw [← BitVec.toNat_inj]; rfl
  unfold decodeGroup0
  by_cases hcls : op = 0x00E0#16
  · simp [hcls]
  · by_cases hret : op = 0x00EE#16
    · simp [hret]
    · simp [hcls, hret, ← h1, ← h2]

theorem lowDigitZero_error_iff (i : Instr) (r : Reject) :
    (∃ e, (if opN op = 0#4 then .ok i else .error r : Except Reject Instr) = .error e) ↔ op.toNat % 16 ≠ 0 := by
  have h : opN op = 0#4 ↔ op.toNat % 16 = 0 := by rw [← opN_toNat, ← BitVec.toNat_inj]; rfl
  rw [ne_eq, ← h]
  by_cases hn : opN op = 0#4
  · simp [hn]
  · simp [hn]

theorem decodeGroup8_error_iff :
    (∃ r, decodeGroup8 op = .error r) ↔ op.toNat % 16 ∈ [0x8, 0x9, 0xA, 0xB, 0xC, 0xD, 0xF] := by
  have hlt : op.toNat % 16 < 16 := Nat.mod_lt _ (by decide)
  simp only [decodeGroup8, opN_toNat]
  generalize op.toNat % 16 = n at hlt ⊢
  interval_cases n <;> simp

theorem decodeGroupE_error_iff :
    (∃ r, decodeGroupE op = .error r) ↔ op.toNat % 256 ∉ [0x9E, 0xA1] := by
  simp only [decodeGroupE, opKk_toNat]
  split <;> simp_all

theorem decodeGroupF_error_iff :
    (∃ r, decodeGroupF op = .error r) ↔
      op.toNat % 256 ∉ [0x07, 0x0A, 0x15, 0x18, 0x1E, 0x29, 0x33, 0x55, 0x65] := by
  simp only [decodeGroupF, opKk_toNat]
  split <;> simp_all

end

/-- Settles O12: by group digit; in groups 0, 5, 8, 9, E and F the set is that group's, the others refuse nothing. -/
theorem unknownOpcodesAreTheListedOnes : Obligations.UnknownOpcodesAreTheListedOnes := by
  unfold Obligations.UnknownOpcodesAreTheListedOnes
  intro op
  have hsmall : op.toNat < 0x1000 ↔ op.toNat / 0x1000 = 0 := by omega
  have hgroup : op.toNat / 0x1000 < 16 := by have := op.isLt; omega
  rw [hsmall]
  simp only [decodeOpcode, opGroup_toNat]
  generalize op.toNat / 0x1000 = g at hgroup ⊢
  match g, hgroup with
  | 0x0, _ => simpa using decodeGroup0_error_iff
  | 0x5, _ => simpa using lowDigitZero_error_iff _ _
  | 0x8, _ => simpa using decodeGroup8_error_iff
  | 0x9, _ => simpa using lowDigitZero_error_iff _ _
  | 0xE, _ => simpa using decodeGroupE_error_iff
  | 0xF, _ => simpa using decodeGroupF_error_iff
  | 0x1, _ | 0x2, _ | 0x3, _ | 0x4, _ | 0x6, _ | 0x7, _ | 0xA, _ | 0xB, _ | 0xC, _ | 0xD, _ => simp
  | _ + 16, h => omega

/-- Settles O13: the thirteen words, each decoded by evaluation. -/
theorem wordsOfTheSpecDecode : Obligations.WordsOfTheSpecDecode := by
  unfold Obligations.WordsOfTheSpecDecode
  decide

end Sys2Proof
end

section
/-! SUPPORT. The statements of 41_control_flow.md: the call stack and the indexed jump. -/

namespace Sys2Proof.Machine
open Sys2Proof.Claims

section
variable (s : State) (nnn : Addr12)

theorem exec_ret : exec .ret s = .next (if s.sp.val = 0 then s.raiseFault .ret .stackUnderflow 0 else s.popPc) := rfl

theorem exec_call : exec (.call nnn) s = .next (if s.sp.val = 16 then
    s.raiseFault (.call nnn) .stackOverflow (addressOperand nnn) else s.pushPc.jump (addressOperand nnn)) := rfl

theorem exec_jpV0 : exec (.jpV0 nnn) s = .next (s.jump (addressOperand nnn + s.wordV Reg.v0)) := rfl

/-- A push and a jump change only the call stack and `pc`. -/
theorem frame_pushPc_jump (target : Word) : Frame { callStack := true } s (s.pushPc.jump target) := by
  simp [Frame, SameRecord]

/-- A pop changes only `SP` and `pc`. -/
theorem frame_popPc : Frame { callStack := true } s s.popPc := by
  simp [Frame, SameRecord]

end

/-- A push writes entry `SP` and no other, whatever the index. -/
theorem pushPc_stack_getElem? (s : State) (j : Nat) (h : s.sp.val < 16) :
    s.pushPc.stack[j]? = if s.sp.val = j then some s.pc else s.stack[j]? := by
  rw [State.pushPc_stack, Vector.getElem?_setIfInBounds, if_pos h]

section
variable {s : State}

theorem exec_call_of_room (nnn : Addr12) (h : s.sp.val < 16) :
    exec (.call nnn) s = .next (s.pushPc.jump (addressOperand nnn)) := by
  rw [exec_call, if_neg (Nat.ne_of_lt h)]

theorem exec_ret_of_entry (h : 0 < s.sp.val) : exec .ret s = .next s.popPc := by
  rw [exec_ret, if_neg (Nat.ne_of_gt h)]

/-- The entry a pop takes, as the statements read the stack. -/
theorem stack_getElem?_popPc {j : Nat} (h : s.sp.val = j + 1) : s.stack[j]? = some s.popPc.pc := by
  have hj : j < 16 := by have := s.sp.isLt; omega
  rw [popPc_pc_eq s j hj h, Vector.getElem?_eq_getElem hj]

end

/-- `nnn + V0` does not wrap: it is at most 0x10FE (C3). -/
theorem indexedTarget_toNat (s : State) (nnn : Addr12) :
    (addressOperand nnn + s.wordV Reg.v0).toNat = nnn.toNat + (s.getV 0).toNat := by
  have hn : nnn.toNat < 4096 := nnn.isLt
  have hv : (s.getV 0).toNat < 256 := (s.getV 0).isLt
  rw [BitVec.toNat_add, addressOperand_toNat, wordV_toNat]
  exact Nat.mod_eq_of_lt (by omega)

/-- Settles O28: a jump to the 16-bit sum, which cannot wrap. -/
theorem indexedJumpAddsV0Unmasked : Obligations.IndexedJumpAddsV0Unmasked := by
  unfold Obligations.IndexedJumpAddsV0Unmasked
  intro s nnn
  exact ⟨_, exec_jpV0 s nnn, indexedTarget_toNat s nnn, frame_jump s _⟩

/-- Settles O30: with room, execution is the push and the jump. -/
theorem callPushesReturnAddressAndJumps : Obligations.CallPushesReturnAddressAndJumps := by
  unfold Obligations.CallPushesReturnAddressAndJumps
  intro s nnn hroom
  have hentry : s.pushPc.stack[s.sp.val]? = some s.pc := by
    rw [pushPc_stack_getElem? s _ hroom, if_pos rfl]
  have hothers (j : Nat) (hj : j ≠ s.sp.val) : s.pushPc.stack[j]? = s.stack[j]? := by
    rw [pushPc_stack_getElem? s _ hroom, if_neg hj.symm]
  exact ⟨_, exec_call_of_room nnn hroom, addressOperand_toNat nnn, pushPc_sp_val s hroom, hentry, hothers,
    frame_pushPc_jump s _⟩

/-- Settles O31: with an entry, execution is the pop. -/
theorem returnPopsTheLastEntry : Obligations.ReturnPopsTheLastEntry := by
  unfold Obligations.ReturnPopsTheLastEntry
  intro s j hj
  have hpos : 0 < s.sp.val := by omega
  have hsp : s.popPc.sp.val = j := by rw [popPc_sp_val s hpos, hj, Nat.add_sub_cancel]
  exact ⟨s.popPc, exec_ret_of_entry hpos, stack_getElem?_popPc hj, hsp, State.popPc_stack s, frame_popPc s⟩

/-- Settles O32: the return pops the entry the call pushed, which holds the call's advanced `pc`. -/
theorem returnUndoesCall : Obligations.ReturnUndoesCall := by
  unfold Obligations.ReturnUndoesCall
  intro s nnn hroom
  refine ⟨_, exec_call_of_room nnn hroom, fun u hstack hsp => ?_⟩
  have husp : u.sp.val = s.sp.val + 1 := (congrArg Fin.val hsp).trans (pushPc_sp_val s hroom)
  have hpos : 0 < u.sp.val := by omega
  have hpc : some u.popPc.pc = some s.pc := by
    rw [← stack_getElem?_popPc husp, hstack, State.jump_stack, pushPc_stack_getElem? s _ hroom, if_pos rfl]
  refine ⟨u.popPc, exec_ret_of_entry hpos, Option.some.inj hpc, Fin.ext ?_⟩
  rw [popPc_sp_val u hpos, husp, Nat.add_sub_cancel]

end Sys2Proof.Machine
end

section
/-! SUPPORT. The statements of 42_alu.md and 45_keypad_timer.md that are one write or one test: the random byte, the
timer transfers, the key skips. -/

namespace Sys2Proof.Machine
open Sys2Proof.Claims

section
variable (x : Reg) (kk : Byte) (s : State)

theorem exec_rnd : exec (.rnd x kk) s = .next (s.setV x (s.rand &&& kk)) := rfl

theorem exec_ldVxDt : exec (.ldVxDt x) s = .next (s.setV x s.dt) := rfl

theorem exec_ldDtVx : exec (.ldDtVx x) s = .next { s with dt := s.getV x } := rfl

theorem exec_ldStVx : exec (.ldStVx x) s = .next { s with st := s.getV x } := rfl

theorem exec_skp : exec (.skp x) s = .next (if (s.getV x).toNat > 0xF then
    s.raiseFault (.skp x) .keyIndexOutOfRange (s.wordV x) else s.skipIf (s.keyPressed (s.getV x).toNat)) := rfl

theorem exec_sknp : exec (.sknp x) s = .next (if (s.getV x).toNat > 0xF then
    s.raiseFault (.sknp x) .keyIndexOutOfRange (s.wordV x) else s.skipIf (!s.keyPressed (s.getV x).toNat)) := rfl

theorem frame_setDelay (b : Byte) : Frame { delay := true } s { s with dt := b } := by
  simp [Frame, SameRecord, State.getV]

theorem frame_setSound (b : Byte) : Frame { sound := true } s { s with st := b } := by
  simp [Frame, SameRecord, State.getV]

/-- A presented byte is the random byte of the step. -/
theorem rand_of_presented {r : Byte} (h : s.randIn = some r) : s.rand = r := by
  rw [State.rand, h, Option.getD_some]

/-- With no byte presented the random byte is the free value. -/
theorem rand_of_none (h : s.randIn = none) : s.rand = Config.freeRand s.randDraws := by
  rw [State.rand, h, Option.getD_none]

theorem exec_skp_of_key {s : State} (h : (s.getV x).toNat ≤ 0xF) :
    exec (.skp x) s = .next (s.skipIf (s.keyPressed (s.getV x).toNat)) := by
  rw [exec_skp, if_neg (Nat.not_lt.mpr h)]

theorem exec_sknp_of_key {s : State} (h : (s.getV x).toNat ≤ 0xF) :
    exec (.sknp x) s = .next (s.skipIf (!s.keyPressed (s.getV x).toNat)) := by
  rw [exec_sknp, if_neg (Nat.not_lt.mpr h)]

end

/-- Settles O37: one register write of the masked byte, presented or free. -/
theorem randomByteIsMasked : Obligations.RandomByteIsMasked := by
  unfold Obligations.RandomByteIsMasked
  intro s x kk
  obtain ⟨t, ht, hval, hpc, hframe⟩ := exec_setV (exec_rnd x kk s)
  refine ⟨t, ht, fun r hr b => ?_, fun hnone => ?_, hpc, hframe⟩
  · rw [hval, rand_of_presented s hr, BitVec.getLsbD_and]
  · rw [hval, rand_of_none s hnone]

/-- Settles O46: with a key number in range, each is `exec_skip` on the key's level. -/
theorem keySkipsTestTheKeysLevel : Obligations.KeySkipsTestTheKeysLevel := by
  unfold Obligations.KeySkipsTestTheKeysLevel
  intro s x hkey
  obtain ⟨t, ht, htpc, htframe⟩ := exec_skip (exec_skp_of_key x hkey) Iff.rfl
  obtain ⟨u, hu, hupc, huframe⟩ := exec_skip (exec_sknp_of_key x hkey) (iff_of_eq (Bool.not_eq_true' _))
  exact ⟨⟨t, ht, htframe, htpc⟩, ⟨u, hu, huframe, hupc⟩⟩

/-- Settles O49: a register write of `DT`, and writes of `DT` and of `ST` with the register. -/
theorem timerTransfersCopyTheRegister : Obligations.TimerTransfersCopyTheRegister := by
  unfold Obligations.TimerTransfersCopyTheRegister
  intro s x
  exact ⟨exec_setV (exec_ldVxDt x s), ⟨_, exec_ldDtVx x s, rfl, rfl, frame_setDelay s _⟩,
    ⟨_, exec_ldStVx x s, rfl, rfl, frame_setSound s _⟩⟩

end Sys2Proof.Machine
end

section
/-! SUPPORT. The statements of 43_memory_block.md: the three accesses to memory from `I`. -/

namespace Sys2Proof.Machine
open Sys2Proof.Claims

section
variable (x : Reg) (s : State)

theorem exec_ldB :
    exec (.ldB x) s = .next (s.withDataRange (.ldB x) 3 (s.storeAtI (bcdDigits (s.getV x)))) := rfl

theorem exec_ldMemVx :
    exec (.ldMemVx x) s = .next (s.withDataRange (.ldMemVx x) (x.val + 1) (s.storeAtI (s.getVs x))) := rfl

theorem exec_ldVxMem : exec (.ldVxMem x) s = .next (s.withDataRange (.ldVxMem x) (x.val + 1)
    (s.setVs (s.mem.readBytes (s.dataAddress 0) (x.val + 1)))) := rfl

end

/-! ### Which addresses and registers the claims name -/

@[simp] theorem mem_bytesFromI {s : State} {count a : Nat} :
    a ∈ bytesFromI s count ↔ s.i.toNat ≤ a ∧ a < s.i.toNat + count := by
  simp only [bytesFromI, State.dataAddress, List.mem_map, List.mem_range]
  constructor
  · rintro ⟨k, hk, rfl⟩
    omega
  · rintro ⟨hlow, hhigh⟩
    exact ⟨a - s.i.toNat, by omega, by omega⟩

@[simp] theorem mem_regsUpTo {x r : Reg} : r ∈ regsUpTo x ↔ r ≤ x := by
  simp [regsUpTo]

/-! ### What a store and a block load change -/

/-- A store from `I` changes only its own bytes. -/
theorem frame_storeAtI (s : State) {bytes : List Byte} {count : Nat} (h : bytes.length = count) :
    Frame { bytes := bytesFromI s count } s (s.storeAtI bytes) := by
  have hother : ∀ a, a ∉ bytesFromI s count → (s.storeAtI bytes).mem.read a = s.mem.read a := by
    intro a ha
    rw [State.storeAtI_mem, Memory.read_writeBytes_outside]
    rwa [mem_bytesFromI, ← h] at ha
  exact ⟨by simp, by simp, by simp, by simp, by simp, hother, by simp [SameRecord]⟩

/-- A block load changes only the registers it reaches. -/
theorem frame_setVs (s : State) {bytes : List Byte} {x : Reg} (h : bytes.length = x.val + 1) :
    Frame { regs := regsUpTo x } s (s.setVs bytes) := by
  have hother : ∀ r, r ∉ regsUpTo x → (s.setVs bytes).getV r = s.getV r := by
    intro r hr
    have hlen : bytes.length ≤ r.val := by
      rw [mem_regsUpTo, Fin.le_def] at hr
      omega
    rw [State.getV_setVs, List.getD_eq_default _ _ hlen]
  exact ⟨hother, by simp [SameRecord]⟩

/-- Byte `k` of a store, read back. -/
theorem read_storeAtI (s : State) {bytes : List Byte} {k : Nat} (h : k < bytes.length) :
    (s.storeAtI bytes).mem.read (s.dataAddress k) = bytes.getD k 0 :=
  Memory.read_writeBytes_inside _ _ _ _ h

/-- What `Fx55` stored for a register. -/
theorem read_storeAtI_getVs (s : State) {x j : Reg} (h : j ≤ x) :
    (s.storeAtI (s.getVs x)).mem.read (s.dataAddress j.val) = s.getV j := by
  have hlen : j.val < (s.getVs x).length := by rw [State.length_getVs]; exact Nat.lt_succ_of_le h
  rw [read_storeAtI s hlen, List.getD_eq_getElem?_getD, State.getVs_getElem? s x j h, Option.getD_some]

/-- What `Fx65` loads into a register. -/
theorem getV_setVs_readBytes (s : State) {x j : Reg} (h : j ≤ x) :
    (s.setVs (s.mem.readBytes (s.dataAddress 0) (x.val + 1))).getV j = s.mem.read (s.dataAddress j.val) := by
  rw [State.getV_setVs, Memory.readBytes_getD, if_pos (Nat.lt_succ_of_le h)]
  rfl

/-! ### The instructions in range (D2) -/

section
variable {s : State} {x : Reg}

theorem exec_ldB_in_range (h : s.i.toNat + 2 ≤ 0xFFF) :
    exec (.ldB x) s = .next (s.storeAtI (bcdDigits (s.getV x))) := by
  rw [exec_ldB, withDataRange_inside s _ _ (.inl (by omega))]

theorem exec_ldMemVx_in_range (h : s.i.toNat + x.val ≤ 0xFFF) :
    exec (.ldMemVx x) s = .next (s.storeAtI (s.getVs x)) := by
  rw [exec_ldMemVx, withDataRange_inside s _ _ (.inl (by omega))]

theorem exec_ldVxMem_in_range (h : s.i.toNat + x.val ≤ 0xFFF) :
    exec (.ldVxMem x) s = .next (s.setVs (s.mem.readBytes (s.dataAddress 0) (x.val + 1))) := by
  rw [exec_ldVxMem, withDataRange_inside s _ _ (.inl (by omega))]

end

/-! ### The statements -/

/-- Settles O38: the three bytes are the hundreds, the tens and the ones of the value. -/
theorem bcdDigitsReconstructTheValue : Obligations.BcdDigitsReconstructTheValue := by
  unfold Obligations.BcdDigitsReconstructTheValue
  intro s x hrange
  obtain ⟨h, t, o, hdigits, hh, ht, ho⟩ := bcdDigits_spec (s.getV x)
  have hread (k : Nat) (hk : k < 3) :
      (s.storeAtI (bcdDigits (s.getV x))).mem.read (s.dataAddress k) = [h, t, o].getD k 0 := by
    rw [hdigits]
    exact read_storeAtI s hk
  refine ⟨_, exec_ldB_in_range hrange, ?_⟩
  rw [hread 0 (by decide), hread 1 (by decide), hread 2 (by decide)]
  simp only [List.getD_cons_zero, List.getD_cons_succ]
  exact ⟨hh, by omega, by omega, by omega, State.storeAtI_pc s _, frame_storeAtI s rfl⟩

/-- Settles O39: in range, execution is the store of the registers. -/
theorem blockStoreWritesRegistersInOrder : Obligations.BlockStoreWritesRegistersInOrder := by
  unfold Obligations.BlockStoreWritesRegistersInOrder
  intro s x hrange
  exact ⟨_, exec_ldMemVx_in_range hrange, fun _ => read_storeAtI_getVs s, State.storeAtI_pc s _,
    frame_storeAtI s (State.length_getVs s x)⟩

/-- Settles O40: in range, execution is the write of the block of registers. -/
theorem blockLoadReadsRegistersInOrder : Obligations.BlockLoadReadsRegistersInOrder := by
  unfold Obligations.BlockLoadReadsRegistersInOrder
  intro s x hrange
  exact ⟨_, exec_ldVxMem_in_range hrange, fun _ => getV_setVs_readBytes s, State.setVs_pc s _,
    frame_setVs s (Memory.length_readBytes _ _ _)⟩

/-- Settles O41: the load reads, from the same addresses, what the store wrote. -/
theorem blockStoreThenLoadRoundTrips : Obligations.BlockStoreThenLoadRoundTrips := by
  unfold Obligations.BlockStoreThenLoadRoundTrips
  intro s x hrange
  refine ⟨_, exec_ldMemVx_in_range hrange, fun u hmem hi => ?_⟩
  have hrange' : u.i.toNat + x.val ≤ 0xFFF := by rwa [hi]
  refine ⟨_, exec_ldVxMem_in_range hrange', fun j hj => ?_⟩
  have haddress : u.dataAddress j.val = s.dataAddress j.val := by simp only [State.dataAddress, hi]
  rw [getV_setVs_readBytes u hj, hmem, haddress, read_storeAtI_getVs s hj]

/-- Settles O42: a fetch at `I` puts together the bytes stored for `V0` and `V1`. -/
theorem fetchSeesStoredBytes : Obligations.FetchSeesStoredBytes := by
  unfold Obligations.FetchSeesStoredBytes
  intro s x hx hrange
  refine ⟨_, exec_ldMemVx_in_range hrange, ?_⟩
  have hhi : (s.storeAtI (s.getVs x)).mem.read s.i.toNat = s.getV 0 :=
    read_storeAtI_getVs s (j := 0) (Fin.zero_le x)
  have hlo : (s.storeAtI (s.getVs x)).mem.read (s.i.toNat + 1) = s.getV 1 := read_storeAtI_getVs s (j := 1) hx
  rw [fetch_inside _ (show s.i.toNat ≤ 0xFFE by omega), Option.map_some, State.opcodeAtPc]
  simp only [hhi, hlo, opcodeOfBytes_toNat]

end Sys2Proof.Machine
end

section
/-! SUPPORT. The statements of 44_display.md: clear and draw. -/

namespace Sys2Proof.Machine
open Sys2Proof.Claims

/-- The framebuffer and the collision after the sprite of `Dxyn` is drawn from no collision (R182 to R185). -/
def State.drawn (s : State) (x y : Reg) (n : Nibble) : Drawing :=
  drawRows (s.spriteRows n) (s.anchorX x) (s.anchorY y) (s.fb, false)

/-- What `Dxyn` leaves when it does not fault: the drawing, and the collision in `VF`. -/
def State.afterDraw (s : State) (x y : Reg) (n : Nibble) : State :=
  { s with fb := (s.drawn x y n).1 }.setV Reg.vf (flagByte (s.drawn x y n).2)

theorem exec_cls (s : State) : exec .cls s = .next { s with fb := Framebuffer.clear } := rfl

theorem exec_drw (x y : Reg) (n : Nibble) (s : State) :
    exec (.drw x y n) s = .next (s.withDataRange (.drw x y n) n.toNat (s.afterDraw x y n)) := rfl

/-- A write of the framebuffer changes only that. -/
theorem frame_setScreen (s : State) (fb : Framebuffer) : Frame { screen := true } s { s with fb := fb } := by
  simp [Frame, SameRecord, State.getV]

section
variable (s : State) (x y : Reg) (n : Nibble)

@[simp] theorem afterDraw_fb : (s.afterDraw x y n).fb = (s.drawn x y n).1 := rfl
@[simp] theorem afterDraw_pc : (s.afterDraw x y n).pc = s.pc := rfl
@[simp] theorem afterDraw_i : (s.afterDraw x y n).i = s.i := rfl

@[simp] theorem getV_vf_afterDraw : (s.afterDraw x y n).getV Reg.vf = flagByte (s.drawn x y n).2 :=
  State.getV_setV_same _ _ _

/-- A draw changes only the framebuffer and `VF`. -/
theorem frame_afterDraw : Frame { regs := [Reg.vf], screen := true } s (s.afterDraw x y n) := by
  have hother : ∀ r, r ∉ [Reg.vf] → (s.afterDraw x y n).getV r = s.getV r := by
    intro r hr
    exact State.getV_setV_other _ _ (List.ne_of_not_mem_cons hr)
  exact ⟨hother, by simp [SameRecord, State.afterDraw]⟩

/-- The sprite bit on a position, as the rasterizer finds it and as the claims state it. -/
theorem spriteBit_iff_spriteSets (px py : Nat) :
    spriteBit (s.spriteRows n) (s.anchorX x) (s.anchorY y) px py = true ↔ SpriteSets s x y n px py := by
  simp only [spriteBit, State.spriteRows, Memory.readBytes_getD, Bool.and_eq_true, decide_eq_true_eq]
  constructor
  · rintro ⟨⟨hrow, hleft, hright⟩, hbit⟩
    by_cases hn : py - s.anchorY y < n.toNat
    · rw [if_pos hn] at hbit
      exact ⟨py - s.anchorY y, px - s.anchorX x, hn, by omega, (Nat.add_sub_of_le hleft).symm,
        (Nat.add_sub_of_le hrow).symm, hbit⟩
    · simp [hn] at hbit
  · rintro ⟨r, c, hr, hc, rfl, rfl, hbit⟩
    have hy : (s.getV y).toNat % 32 + r - s.anchorY y = r := Nat.add_sub_cancel_left _ _
    have hx : (s.getV x).toNat % 64 + c - s.anchorX x = c := Nat.add_sub_cancel_left _ _
    rw [hy, hx, if_pos hr]
    exact ⟨⟨Nat.le_add_right _ _, Nat.le_add_right _ _, Nat.add_lt_add_left hc _⟩, hbit⟩

/-- Every pixel of the grid after a draw: inverted under a set sprite bit (R187, R188). -/
theorem drawn_pixel {px py : Nat} (hpx : px < 64) (hpy : py < 32) :
    (s.drawn x y n).1.pixel px py =
      (s.fb.pixel px py ^^ spriteBit (s.spriteRows n) (s.anchorX x) (s.anchorY y) px py) :=
  drawRows_pixel _ _ px py hpx hpy _ _

/-- The collision of a draw: a set sprite bit on a pixel that was on (R185). -/
theorem drawn_collision : (s.drawn x y n).2 = true ↔
    ∃ px py, px < 64 ∧ py < 32 ∧ spriteBit (s.spriteRows n) (s.anchorX x) (s.anchorY y) px py = true ∧
      s.fb.pixel px py = true := by
  rw [State.drawn, drawRows_collision]
  simp only [Bool.false_eq_true, false_or]

end

theorem flagByte_eq_one_iff (b : Bool) : flagByte b = 1 ↔ b = true := by cases b <;> decide

theorem flagByte_zero_or_one (b : Bool) : flagByte b = 0 ∨ flagByte b = 1 := by cases b <;> decide

/-- With its sprite bytes in range, or none, `Dxyn` draws (D8, R186). -/
theorem exec_drw_in_range {s : State} {n : Nibble} (x y : Reg) (h : n = 0 ∨ s.i.toNat + n.toNat - 1 ≤ 0xFFF) :
    exec (.drw x y n) s = .next (s.afterDraw x y n) := by
  have hrange : s.i.toNat + n.toNat ≤ 4096 ∨ n.toNat = 0 := by
    rcases h with rfl | h
    · exact .inr rfl
    · omega
  rw [exec_drw, withDataRange_inside s _ _ hrange]

/-- Settles O43: the framebuffer is the cleared one. -/
theorem clearTurnsEveryPixelOff : Obligations.ClearTurnsEveryPixelOff := by
  unfold Obligations.ClearTurnsEveryPixelOff
  intro s
  exact ⟨_, exec_cls s, fun px py _ _ => pixel_clear px py, rfl, frame_setScreen s _⟩

/-- Settles O44: the closed form of the rasterizer, read through `spriteBit_iff_spriteSets`. -/
theorem drawXorsTheSpriteAndReportsCollision : Obligations.DrawXorsTheSpriteAndReportsCollision := by
  unfold Obligations.DrawXorsTheSpriteAndReportsCollision
  intro s x y n hrange
  refine ⟨_, exec_drw_in_range x y hrange, fun px py hpx hpy => ?_, ?_, ?_, afterDraw_pc s x y n,
    frame_afterDraw s x y n⟩
  · rw [afterDraw_fb, drawn_pixel s x y n hpx hpy, ← spriteBit_iff_spriteSets]
    constructor
    · intro hset
      rw [hset, Bool.xor_true]
    · intro hclear
      rw [Bool.eq_false_of_not_eq_true hclear, Bool.xor_false]
  · rw [getV_vf_afterDraw]
    exact flagByte_zero_or_one _
  · simp only [getV_vf_afterDraw, flagByte_eq_one_iff, drawn_collision, spriteBit_iff_spriteSets]

/-- Settles O45: the same sprite bits lie on the same pixels, so the second draw inverts each pixel back, and meets an
on pixel exactly where the first turned one on. -/
theorem drawingTwiceRestoresTheScreen : Obligations.DrawingTwiceRestoresTheScreen := by
  unfold Obligations.DrawingTwiceRestoresTheScreen
  intro s x y n hrange
  refine ⟨_, exec_drw_in_range x y hrange, fun hx hy => ?_⟩
  generalize ht : s.afterDraw x y n = t at hx hy ⊢
  have hanchorX : t.anchorX x = s.anchorX x := hx
  have hanchorY : t.anchorY y = s.anchorY y := hy
  have hrows : t.spriteRows n = s.spriteRows n := by rw [← ht]; rfl
  have hrange' : n = 0 ∨ t.i.toNat + n.toNat - 1 ≤ 0xFFF := by rwa [← ht, afterDraw_i]
  have hfirst {px py : Nat} (hpx : px < 64) (hpy : py < 32) : t.fb.pixel px py =
      (s.fb.pixel px py ^^ spriteBit (s.spriteRows n) (s.anchorX x) (s.anchorY y) px py) := by
    rw [← ht, afterDraw_fb, drawn_pixel s x y n hpx hpy]
  refine ⟨_, exec_drw_in_range x y hrange', framebuffer_ext fun px py hpx hpy => ?_, ?_⟩
  · rw [afterDraw_fb, drawn_pixel t x y n hpx hpy, hrows, hanchorX, hanchorY, hfirst hpx hpy, Bool.xor_assoc,
      Bool.xor_self, Bool.xor_false]
  · rw [getV_vf_afterDraw, flagByte_eq_one_iff, drawn_collision, hrows, hanchorX, hanchorY]
    refine exists_congr fun px => exists_congr fun py => and_congr_right fun hpx => and_congr_right fun hpy => ?_
    rw [hfirst hpx hpy]
    generalize s.fb.pixel px py = before
    generalize spriteBit (s.spriteRows n) (s.anchorX x) (s.anchorY y) px py = bit
    cases before <;> cases bit <;> decide

end Sys2Proof.Machine
end

section
/-! SUPPORT. What an instruction does, said once: it raises the fault the table of 60_exceptions.md R221 names for the
state, or leaves `completed`. Then what `completed` changes, where it puts `pc`, and that it keeps memory canonical. -/

namespace Sys2Proof.Machine
open Sys2Proof.Claims

/-! ### The two ways an instruction can end -/

/-- The state the key wait leaves: back on itself, or the first pressed key latched (R203). -/
def State.afterKeyWait (s : State) (x : Reg) : State :=
  match s.firstPressed with
  | none => s.rewindPc
  | some k => s.setV x (BitVec.ofNat 8 k)

/-- The state an instruction leaves where it raises no fault; `exec_eq` ties it to `exec`. -/
def completed (i : Instr) (s : State) : State :=
  match i with
  | .cls => { s with fb := Framebuffer.clear }
  | .ret => s.popPc
  | .jp nnn => s.jump (addressOperand nnn)
  | .call nnn => s.pushPc.jump (addressOperand nnn)
  | .seImm x kk => s.skipIf (s.getV x == kk)
  | .sneImm x kk => s.skipIf (s.getV x != kk)
  | .seReg x y => s.skipIf (s.getV x == s.getV y)
  | .ldImm x kk => s.setV x kk
  | .addImm x kk => s.setV x (s.getV x + kk)
  | .ldReg x y => s.setV x (s.getV y)
  | .orReg x y => s.setV x (s.getV x ||| s.getV y)
  | .andReg x y => s.setV x (s.getV x &&& s.getV y)
  | .xorReg x y => s.setV x (s.getV x ^^^ s.getV y)
  | .addReg x y => s.setVThenFlag x (s.getV x + s.getV y) (carryFlag (s.getV x) (s.getV y))
  | .subReg x y => s.setVThenFlag x (s.getV x - s.getV y) (greaterFlag (s.getV x) (s.getV y))
  | .shr x _ => s.setVThenFlag x (s.getV x >>> 1) (shrFlag (s.getV x))
  | .subnReg x y => s.setVThenFlag x (s.getV y - s.getV x) (greaterFlag (s.getV y) (s.getV x))
  | .shl x _ => s.setVThenFlag x (s.getV x <<< 1) (shlFlag (s.getV x))
  | .sneReg x y => s.skipIf (s.getV x != s.getV y)
  | .ldI nnn => { s with i := addressOperand nnn }
  | .jpV0 nnn => s.jump (addressOperand nnn + s.wordV Reg.v0)
  | .rnd x kk => s.setV x (s.rand &&& kk)
  | .drw x y n => s.afterDraw x y n
  | .skp x => s.skipIf (s.keyPressed (s.getV x).toNat)
  | .sknp x => s.skipIf (!s.keyPressed (s.getV x).toNat)
  | .ldVxDt x => s.setV x s.dt
  | .ldVxK x => s.afterKeyWait x
  | .ldDtVx x => { s with dt := s.getV x }
  | .ldStVx x => { s with st := s.getV x }
  | .addI x => { s with i := s.i + s.wordV x }
  | .ldF x => { s with i := BitVec.ofNat 16 (Config.fontBase + Config.fontGlyphBytes * (s.getV x).toNat) }
  | .ldB x => s.storeAtI (bcdDigits (s.getV x))
  | .ldMemVx x => s.storeAtI (s.getVs x)
  | .ldVxMem x => s.setVs (s.mem.readBytes (s.dataAddress 0) (x.val + 1))

/-- The state `exec` gives: the instruction's fault raised where the table has one, otherwise `completed`. -/
def executed (i : Instr) (s : State) : State :=
  (instrFault i s).elim (completed i s) fun fault => s.raiseFault i fault.1 fault.2

/-- A fault listed on a condition `P` is raised under it. -/
theorem executed_of_ite {i : Instr} {s : State} {P : Prop} [Decidable P] {fault : FaultCode × Word}
    (h : instrFault i s = if P then some fault else none) :
    executed i s = if P then s.raiseFault i fault.1 fault.2 else completed i s := by
  rw [executed, h]
  split <;> rfl

/-- A fault listed on a condition is there only under it. -/
theorem fault_of_ite {P : Prop} [Decidable P] {fault : FaultCode × Word} {code : FaultCode} {info : Word}
    (h : (if P then some fault else none) = some (code, info)) : P ∧ fault.1 = code ∧ fault.2 = info := by
  obtain ⟨hP, hfault⟩ := Option.ite_none_right_eq_some.mp h
  cases hfault
  exact ⟨hP, rfl, rfl⟩

/-- Where no fault is listed, the condition of the one that could be is false. -/
theorem no_fault_of_ite {P : Prop} [Decidable P] {fault : FaultCode × Word}
    (h : (if P then some fault else none) = none) : ¬ P :=
  fun hP => Option.some_ne_none fault ((if_pos hP).symm.trans h)

/-- The range check as the fault table states it: on a condition `P` that says the access does not fit. -/
theorem withDataRange_eq_ite (s : State) (i : Instr) {count : Nat} (done : State) {P : Prop} [Decidable P]
    (h : P ↔ ¬ (s.i.toNat + count ≤ 4096 ∨ count = 0)) :
    s.withDataRange i count done = if P then s.raiseFault i .dataOutOfRange (lowestBad s) else done := by
  by_cases hP : P
  · rw [if_pos hP, withDataRange_outside s i done (h.mp hP)]
    rfl
  · rw [if_neg hP, withDataRange_inside s i done (not_not.mp fun hn => hP (h.mpr hn))]

/-- `Dxyn` has a sprite byte out of range: `n` is not 0, and the last row is above 0xFFF. -/
theorem spriteOutOfRange_iff (a : Nat) (n : Nibble) :
    n ≠ 0 ∧ a + n.toNat - 1 > 0xFFF ↔ ¬ (a + n.toNat ≤ 4096 ∨ n.toNat = 0) := by
  have h : n = 0 ↔ n.toNat = 0 := by rw [← BitVec.toNat_inj]; rfl
  rw [ne_eq, h]
  omega

/-- Everything an instruction can do (R105, R221). The faulting ones check their condition; the others complete. -/
theorem exec_eq (i : Instr) (s : State) : exec i s = .next (executed i s) := by
  cases i with
  | ret => rw [exec_ret, executed_of_ite (i := .ret) rfl]; rfl
  | call nnn => rw [exec_call, executed_of_ite (i := .call nnn) rfl]; rfl
  | skp x => rw [exec_skp, executed_of_ite (i := .skp x) rfl]; rfl
  | sknp x => rw [exec_sknp, executed_of_ite (i := .sknp x) rfl]; rfl
  | drw x y n =>
    rw [exec_drw, withDataRange_eq_ite s _ _ (spriteOutOfRange_iff s.i.toNat n),
      executed_of_ite (i := .drw x y n) rfl]
    rfl
  | ldB x =>
    rw [exec_ldB, withDataRange_eq_ite (P := s.i.toNat + 2 > 0xFFF) s _ _ (by omega),
      executed_of_ite (i := .ldB x) rfl]
    rfl
  | ldMemVx x =>
    rw [exec_ldMemVx, withDataRange_eq_ite (P := s.i.toNat + x.val > 0xFFF) s _ _ (by omega),
      executed_of_ite (i := .ldMemVx x) rfl]
    rfl
  | ldVxMem x =>
    rw [exec_ldVxMem, withDataRange_eq_ite (P := s.i.toNat + x.val > 0xFFF) s _ _ (by omega),
      executed_of_ite (i := .ldVxMem x) rfl]
    rfl
  | _ => rfl

section
variable {i : Instr} {s : State}

theorem exec_of_fault {code : FaultCode} {info : Word} (h : instrFault i s = some (code, info)) :
    exec i s = .next (s.raiseFault i code info) := by
  rw [exec_eq, executed, h]
  rfl

theorem exec_of_no_fault (h : instrFault i s = none) : exec i s = .next (completed i s) := by
  rw [exec_eq, executed, h]
  rfl

end

/-! ### What a completed instruction changes -/

section
variable (s : State)

/-- No key pressed is no bit set. -/
theorem firstPressed_none_iff_keys : s.firstPressed = none ↔ s.keys = 0 := by
  rw [firstPressed_none_iff]
  constructor
  · intro h
    exact BitVec.eq_of_getLsbD_eq fun k hk => (h k hk).trans (BitVec.getLsbD_zero).symm
  · intro h k _
    rw [State.keyPressed, h]
    exact BitVec.getLsbD_zero

theorem keys_ne_zero_of_firstPressed {s : State} {k : Nat} (h : s.firstPressed = some k) : s.keys ≠ 0 := by
  intro hkeys
  rw [(firstPressed_none_iff_keys s).mpr hkeys] at h
  cases h

theorem afterKeyWait_of_none {s : State} (x : Reg) (h : s.firstPressed = none) :
    s.afterKeyWait x = s.rewindPc := by
  rw [State.afterKeyWait, h]

theorem afterKeyWait_of_some {s : State} (x : Reg) {k : Nat} (h : s.firstPressed = some k) :
    s.afterKeyWait x = s.setV x (BitVec.ofNat 8 k) := by
  rw [State.afterKeyWait, h]

theorem frame_afterKeyWait (x : Reg) :
    Frame { regs := if s.keys = 0 then [] else [x] } s (s.afterKeyWait x) := by
  cases hscan : s.firstPressed with
  | none =>
    rw [if_pos ((firstPressed_none_iff_keys s).mp hscan), afterKeyWait_of_none x hscan]
    exact frame_rewindPc s
  | some k =>
    rw [if_neg (keys_ne_zero_of_firstPressed hscan), afterKeyWait_of_some x hscan]
    exact frame_setV s x _

/-- A completed instruction changes, besides `pc`, only what the tables name for it. -/
theorem frame_completed (i : Instr) : Frame (writes i s) s (completed i s) := by
  cases i with
  | cls => exact frame_setScreen s _
  | ret => exact frame_popPc s
  | call => exact frame_pushPc_jump s _
  | jp | jpV0 => exact frame_jump s _
  | seImm | sneImm | seReg | sneReg | skp | sknp => exact frame_skipIf s _
  | ldImm | addImm | ldReg | orReg | andReg | xorReg | rnd | ldVxDt => exact frame_setV s _ _
  | addReg | subReg | subnReg | shr | shl => exact frame_setVThenFlag s _ _ _
  | ldVxK x => exact frame_afterKeyWait s x
  | ldI | addI | ldF => exact frame_setIndex s _
  | drw x y n => exact frame_afterDraw s x y n
  | ldDtVx => exact frame_setDelay s _
  | ldStVx => exact frame_setSound s _
  | ldB => exact frame_storeAtI s rfl
  | ldMemVx x => exact frame_storeAtI s (State.length_getVs s x)
  | ldVxMem => exact frame_setVs s (Memory.length_readBytes _ _ _)

variable (i : Instr)

theorem sameRecord_completed : SameRecord s (completed i s) := by
  obtain ⟨-, -, -, -, -, -, -, hrecord, -⟩ := frame_completed s i
  exact hrecord

@[simp] theorem completed_faulted : (completed i s).faulted = s.faulted := (sameRecord_completed s i).1

@[simp] theorem completed_keys : (completed i s).keys = s.keys := by
  obtain ⟨-, -, -, -, -, -, -, -, -, -, hkeys, -⟩ := frame_completed s i
  exact hkeys

@[simp] theorem completed_randIn : (completed i s).randIn = s.randIn := by
  obtain ⟨-, -, -, -, -, -, -, -, -, -, -, hrand, -⟩ := frame_completed s i
  exact hrand

@[simp] theorem completed_randDraws : (completed i s).randDraws = s.randDraws := by
  obtain ⟨-, -, -, -, -, -, -, -, -, -, -, -, hdraws⟩ := frame_completed s i
  exact hdraws

/-- Only `Fx15` writes `DT`. -/
theorem completed_dt (h : ∀ x, i ≠ .ldDtVx x) : (completed i s).dt = s.dt := by
  obtain ⟨-, -, -, hdelay, -⟩ := frame_completed s i
  cases i with
  | ldDtVx x => exact absurd rfl (h x)
  | _ => exact hdelay rfl

/-- Only `Fx18` writes `ST`. -/
theorem completed_st (h : ∀ x, i ≠ .ldStVx x) : (completed i s).st = s.st := by
  obtain ⟨-, -, -, -, hsound, -⟩ := frame_completed s i
  cases i with
  | ldStVx x => exact absurd rfl (h x)
  | _ => exact hsound rfl

end

/-- Settles O50: an instruction that faults leaves a faulted state; one that does not leaves `completed`. -/
theorem onlyTheNamedInstructionsWriteEachState : Obligations.OnlyTheNamedInstructionsWriteEachState := by
  unfold Obligations.OnlyTheNamedInstructionsWriteEachState
  intro s t i _ hexec hunfaulted
  cases hfault : instrFault i s with
  | none =>
    rw [exec_of_no_fault hfault] at hexec
    cases hexec
    exact frame_completed s i
  | some fault =>
    rw [exec_of_fault hfault] at hexec
    cases hexec
    exact absurd hunfaulted (by simp)

/-! ### Memory stays canonical (log 6) -/

@[simp] theorem afterKeyWait_mem (s : State) (x : Reg) : (s.afterKeyWait x).mem = s.mem := by
  rw [State.afterKeyWait]
  split <;> rfl

/-- A store that fits in the address space keeps the canonical form. -/
theorem storeAtI_mem_wf {s : State} {bytes : List Byte} (h : s.mem.wf) (hfits : s.i.toNat + bytes.length ≤ 4096) :
    (s.storeAtI bytes).mem.wf :=
  Memory.wf_writeBytes bytes s.mem s.i.toNat hfits h

/-- Only the two stores write memory, and where they raise no fault they fit. -/
theorem completed_mem_wf {i : Instr} {s : State} (hfault : instrFault i s = none) (h : s.mem.wf) :
    (completed i s).mem.wf := by
  cases i with
  | ldB x =>
    have hrange : ¬ s.i.toNat + 2 > 0xFFF := no_fault_of_ite hfault
    exact storeAtI_mem_wf h (show s.i.toNat + 3 ≤ 4096 by omega)
  | ldMemVx x =>
    have hrange : ¬ s.i.toNat + x.val > 0xFFF := no_fault_of_ite hfault
    exact storeAtI_mem_wf h (by rw [State.length_getVs]; omega)
  | seImm | sneImm | seReg | sneReg | skp | sknp => exact (State.skipIf_mem s _).symm ▸ h
  | ldVxK x => exact (afterKeyWait_mem s x).symm ▸ h
  | ldVxMem => exact (State.setVs_mem s _).symm ▸ h
  | _ => exact h

/-! ### Where `pc` is (10_state.md R24) -/

/-- A skip from the advanced `pc` is 4 ahead of the instruction (R128). -/
theorem skipIf_advancePc_pc (s : State) (b : Bool) {P : Prop} [Decidable P] (h : b = true ↔ P) :
    (s.advancePc.skipIf b).pc = if P then s.pc + 4 else s.pc + 2 := by
  have hfour : s.pc + 2 + 2 = s.pc + 4 := BitVec.add_assoc _ _ _
  simp only [State.skipIf_pc, State.advancePc_pc, h, hfour]

@[simp] theorem rewindPc_advancePc (s : State) : s.advancePc.rewindPc = s := by
  have hpc : s.pc + 2 - 2 = s.pc := BitVec.add_sub_cancel _ _
  rw [State.rewindPc, State.advancePc_pc, hpc]
  rfl

/-- A pop reads the entry below `SP` as the table writes it. -/
theorem popPc_pc_eq_getD (s : State) : s.popPc.pc = (s.stack[s.sp.val - 1]?).getD 0 := by
  have hlt : s.sp.val - 1 < 16 := by have := s.sp.isLt; omega
  have hv : (Fin.ofNat 16 (s.sp.val - 1)).val = s.sp.val - 1 := Nat.mod_eq_of_lt hlt
  rw [Vector.getElem?_eq_getElem hlt, Option.getD_some]
  show s.stack[(Fin.ofNat 16 (s.sp.val - 1)).val] = _
  simp only [hv]

theorem indexedTarget_eq (s : State) (nnn : Addr12) :
    addressOperand nnn + s.wordV Reg.v0 = BitVec.ofNat 16 (nnn.toNat + (s.getV Reg.v0).toNat) := by
  rw [← indexedTarget_toNat s nnn, BitVec.ofNat_toNat, BitVec.setWidth_eq]

theorem afterKeyWait_advancePc_pc (s : State) (x : Reg) :
    (s.advancePc.afterKeyWait x).pc = if s.keys = 0 then s.pc else s.pc + 2 := by
  cases hscan : s.advancePc.firstPressed with
  | none =>
    have hkeys : s.keys = 0 := (firstPressed_none_iff_keys s.advancePc).mp hscan
    rw [if_pos hkeys, afterKeyWait_of_none x hscan, rewindPc_advancePc]
  | some k =>
    have hkeys : s.keys ≠ 0 := keys_ne_zero_of_firstPressed hscan
    rw [if_neg hkeys, afterKeyWait_of_some x hscan]
    rfl

/-- Where a completed instruction leaves `pc`, from the state at the start of its step. -/
theorem completed_pc (i : Instr) (s : State) : (completed i s.advancePc).pc = pcAfter i s := by
  cases i with
  | seImm | seReg => exact skipIf_advancePc_pc s _ beq_iff_eq
  | sneImm | sneReg => exact skipIf_advancePc_pc s _ bne_iff_ne
  | skp => exact skipIf_advancePc_pc s _ Iff.rfl
  | sknp => exact skipIf_advancePc_pc s _ (iff_of_eq (Bool.not_eq_true' _))
  | ret => exact popPc_pc_eq_getD s.advancePc
  | jpV0 nnn => exact indexedTarget_eq s nnn
  | ldVxK x => exact afterKeyWait_advancePc_pc s x
  | ldVxMem => exact State.setVs_pc _ _
  | _ => rfl

end Sys2Proof.Machine
end

section
/-! SUPPORT. The four ways a step can end, and the statements of 40_cycle.md, 60_exceptions.md and 10_state.md about
steps that follow from them. -/

namespace Sys2Proof.Machine
open Sys2Proof.Claims

/-! ### The cases of a step -/

/-- How the step of `s` can end (40_cycle.md R100): idle in the faulted state, the fault of the table raised with
nothing else changed, an unknown opcode passed over, or the instruction at `pc` completed. -/
inductive StepOutcome (s : State) : State → Prop where
  | idle (hfaulted : s.faulted = true) : StepOutcome s s.idleStep
  | faults {code : FaultCode} {info : Word} (hunfaulted : s.faulted = false)
      (hfault : stepFault s = some (code, info)) :
      StepOutcome s (s.recordFault code s.pc (if s.pc.toNat > 0xFFE then 0 else s.opcodeAtPc) info)
  | unknown {r : Reject} (hunfaulted : s.faulted = false) (hpc : s.pc.toNat ≤ 0xFFE)
      (hdecode : decodeOpcode s.opcodeAtPc = .error r) : StepOutcome s (s.advancePc.finishStep none)
  | completes {i : Instr} (hruns : RunsAt s i) (hfault : instrFault i s = none) :
      StepOutcome s ((completed i s.advancePc).finishStep (some i))

section
variable {s : State} {i : Instr}

/-- No fault condition reads `pc`. -/
@[simp] theorem instrFault_advancePc (i : Instr) (s : State) : instrFault i s.advancePc = instrFault i s := by
  cases i <;> rfl

/-- A fault takes the advance of `pc` back (R224, R225). -/
theorem raiseFault_advancePc (s : State) (i : Instr) (code : FaultCode) (info : Word) :
    s.advancePc.raiseFault i code info = s.recordFault code s.pc (encode i) info := by
  have hpc : s.advancePc.pc - 2 = s.pc := BitVec.add_sub_cancel _ _
  rw [State.raiseFault, rewindPc_advancePc, hpc]

theorem stepFault_of_runsAt (h : RunsAt s i) : stepFault s = instrFault i s := by
  obtain ⟨-, hpc, hdecode⟩ := h
  rw [stepFault, if_neg (Nat.not_lt.mpr hpc), hdecode]

theorem step_of_runsAt {t : State} (h : RunsAt s i) (he : exec i s.advancePc = .next t) :
    step s = .next (if t.faulted then t else t.finishStep (some i)) := by
  obtain ⟨hf, hpc, hdecode⟩ := h
  rw [step_eq_runOpcode hf hpc, runOpcode_instr hdecode he]

theorem step_completes (h : RunsAt s i) (hfault : instrFault i s = none) :
    step s = .next ((completed i s.advancePc).finishStep (some i)) := by
  have hf : (completed i s.advancePc).faulted = false := (completed_faulted _ _).trans h.1
  rw [step_of_runsAt h (exec_of_no_fault (by rwa [instrFault_advancePc])), if_neg (ne_true_of_eq_false hf)]

theorem step_faults (h : RunsAt s i) {code : FaultCode} {info : Word}
    (hfault : instrFault i s = some (code, info)) : step s = .next (s.recordFault code s.pc (encode i) info) := by
  rw [step_of_runsAt h (exec_of_fault (by rwa [instrFault_advancePc])), if_pos (State.raiseFault_faulted _ _ _ _),
    raiseFault_advancePc]

end

/-- Every step ends in one of the four ways. -/
theorem exists_stepOutcome (s : State) : ∃ t, step s = .next t ∧ StepOutcome s t := by
  cases hf : s.faulted with
  | true => exact ⟨_, step_faulted hf, .idle hf⟩
  | false =>
    by_cases hp : s.pc.toNat > 0xFFE
    · have hfault : stepFault s = some (.fetchOutOfRange, s.pc) := if_pos hp
      refine ⟨_, step_fetchFault hf hp, ?_⟩
      simpa only [State.fetchFault, if_pos hp] using StepOutcome.faults hf hfault
    · have hpc : s.pc.toNat ≤ 0xFFE := Nat.not_lt.mp hp
      cases hd : decodeOpcode s.opcodeAtPc with
      | error r => exact ⟨_, step_unknown hf hpc hd, .unknown hf hpc hd⟩
      | ok i =>
        have hruns : RunsAt s i := ⟨hf, hpc, hd⟩
        cases hfault : instrFault i s with
        | none => exact ⟨_, step_completes hruns hfault, .completes hruns hfault⟩
        | some fault =>
          refine ⟨_, step_faults hruns hfault, ?_⟩
          rw [encode_of_decodeOpcode hd]
          simpa only [if_neg hp] using StepOutcome.faults hf ((stepFault_of_runsAt hruns).trans hfault)

theorem stepOutcome_of_step {s t : State} (h : step s = .next t) : StepOutcome s t := by
  obtain ⟨u, hu, houtcome⟩ := exists_stepOutcome s
  rw [h] at hu
  cases hu
  exact houtcome

/-- The instruction at `pc` is the decoded one. -/
theorem runsAt_unique {s : State} {i j : Instr} (hi : RunsAt s i) (hj : RunsAt s j) : i = j := by
  have h : Except.ok i = (.ok j : Except Reject Instr) := hi.2.2.symm.trans hj.2.2
  exact Except.ok.inj h

/-- Nothing runs at an unknown opcode. -/
theorem not_runsAt_of_unknown {s : State} {r : Reject} (h : decodeOpcode s.opcodeAtPc = .error r) (i : Instr) :
    ¬ RunsAt s i := by
  rintro ⟨-, -, hd⟩
  rw [h] at hd
  cases hd

/-- A step that runs `i` and does not fault completes it. -/
theorem eq_completed_of_step {s t : State} {i : Instr} (hruns : RunsAt s i) (hstep : step s = .next t)
    (hunfaulted : t.faulted = false) : t = (completed i s.advancePc).finishStep (some i) := by
  cases stepOutcome_of_step hstep with
  | idle hfaulted => exact absurd hfaulted (ne_true_of_eq_false hruns.1)
  | faults => exact absurd hunfaulted (by simp)
  | unknown _ _ hdecode => exact absurd hruns (not_runsAt_of_unknown hdecode i)
  | completes hruns' => rw [runsAt_unique hruns hruns']

/-! ### The step and its end -/

/-- The bytes at `pc` decode as the opcode they form. -/
theorem decodeOpcode_opcodeAtPc {s : State} {i : Instr} {rest : List Byte}
    (h : decode [s.mem.read s.pc.toNat, s.mem.read (s.pc.toNat + 1)] = .ok (i, rest)) :
    decodeOpcode s.opcodeAtPc = .ok i := by
  rw [decode] at h
  change (decodeOpcode s.opcodeAtPc).map _ = _ at h
  cases hd : decodeOpcode s.opcodeAtPc with
  | error r => rw [hd] at h; cases h
  | ok j => rw [hd] at h; cases h; rfl

/-- Settles O14: `finishStep` is the end of the step the statement writes out, instruction by instruction. -/
theorem stepRunsTheDecodedInstruction : Obligations.StepRunsTheDecodedInstruction := by
  unfold Obligations.StepRunsTheDecodedInstruction
  intro s t i rest hf hpc hdecode hexec
  rw [step_of_runsAt ⟨hf, hpc, decodeOpcode_opcodeAtPc hdecode⟩ hexec]
  cases i <;> rfl

/-- Settles O16: the step completes the instruction, and the end of the step leaves `pc` alone. -/
theorem programCounterAfterEachInstruction : Obligations.ProgramCounterAfterEachInstruction := by
  unfold Obligations.ProgramCounterAfterEachInstruction
  intro s t i hruns hstep hunfaulted
  rw [eq_completed_of_step hruns hstep hunfaulted, State.finishStep_pc, completed_pc]

/-- Settles O17: the end of the step ticks what the instruction left, which only `Fx15` and `Fx18` wrote. -/
theorem timersTickOnceAStep : Obligations.TimersTickOnceAStep := by
  unfold Obligations.TimersTickOnceAStep
  intro s t i hruns hstep hunfaulted
  rw [eq_completed_of_step hruns hstep hunfaulted, State.finishStep_dt, State.finishStep_st, tick_toNat, tick_toNat]
  constructor
  · split
    · rfl
    · next hother => rw [completed_dt _ _ hother]; rfl
  · split
    · rfl
    · next hother => rw [completed_st _ _ hother]; rfl

/-- One step of a run in which no `Fx15` is executed. -/
theorem dt_after_step {s t : State} (hstep : step s = .next t) (hunfaulted : t.faulted = false)
    (hother : ∀ x, decodeOpcode s.opcodeAtPc ≠ .ok (.ldDtVx x)) : t.dt.toNat = s.dt.toNat - 1 := by
  cases stepOutcome_of_step hstep with
  | idle hfaulted => exact absurd hfaulted (ne_true_of_eq_false hunfaulted)
  | faults => exact absurd hunfaulted (by simp)
  | unknown => exact tick_toNat s.dt
  | @completes i hruns =>
    have hne (x : Reg) : i ≠ .ldDtVx x := fun h => hother x (h ▸ hruns.2.2)
    rw [State.finishStep_dt, tick_toNat, completed_dt _ _ hne, State.advancePc_dt]

/-- Settles O18, by induction on the length of the run. -/
theorem delayTimerRunsDown : Obligations.DelayTimerRunsDown := by
  unfold Obligations.DelayTimerRunsDown
  intro run n hrun
  induction n with
  | zero => rfl
  | succ n ih =>
    have hbefore : (run n).dt.toNat = (run 0).dt.toNat - n := ih fun k hk => hrun k (Nat.lt_succ_of_lt hk)
    obtain ⟨hstep, hunfaulted, hother⟩ := hrun n (Nat.lt_succ_self n)
    rw [dt_after_step hstep hunfaulted hother, hbefore, Nat.sub_sub]

/-- The instructions that set `FB_UPDATED` are `00E0` and `Dxyn`. -/
theorem drawsScreen_iff (i : Instr) : drawsScreen i = true ↔ i = .cls ∨ ∃ x y n, i = .drw x y n := by
  cases i <;> simp [drawsScreen]

/-- The instruction that consumes a random byte is `Cxkk`. -/
theorem consumesRand_iff (i : Instr) : consumesRand i = true ↔ ∃ x kk, i = .rnd x kk := by
  cases i <;> simp [consumesRand]

theorem runsAt_iff_eq {s : State} {i : Instr} (h : RunsAt s i) (j : Instr) : RunsAt s j ↔ i = j :=
  ⟨runsAt_unique h, fun e => e ▸ h⟩

/-- Settles O19: only the end of a completed step can set `FB_UPDATED`. -/
theorem fbUpdatedExactlyAfterDrawing : Obligations.FbUpdatedExactlyAfterDrawing := by
  unfold Obligations.FbUpdatedExactlyAfterDrawing
  intro s t hstep
  cases stepOutcome_of_step hstep with
  | idle hfaulted => simp [hfaulted]
  | faults => simp
  | unknown _ _ hdecode => simp [not_runsAt_of_unknown hdecode]
  | @completes i hruns =>
    simp only [State.finishStep_fbUpdated, Option.any_some, drawsScreen_iff, State.finishStep_faulted,
      completed_faulted, State.advancePc_faulted, hruns.1, true_and, runsAt_iff_eq hruns]

/-- No step writes `KEYS` (R57). -/
theorem step_keys {s t : State} (h : step s = .next t) : t.keys = s.keys := by
  cases stepOutcome_of_step h with
  | idle | faults | unknown => rfl
  | completes => exact completed_keys _ _

/-- Settles O20: only the end of a completed `Cxkk` touches the random input, and nothing touches `KEYS`. -/
theorem stepLeavesInputsButOneRandomByte : Obligations.StepLeavesInputsButOneRandomByte := by
  unfold Obligations.StepLeavesInputsButOneRandomByte
  intro s t hstep
  refine ⟨step_keys hstep, ?_⟩
  cases stepOutcome_of_step hstep with
  | idle hfaulted => simp [RunsAt, hfaulted]
  | @faults code info hunfaulted hfault =>
    have hnot (x : Reg) (kk : Byte) : ¬ RunsAt s (.rnd x kk) := by
      intro hruns
      rw [stepFault_of_runsAt hruns] at hfault
      cases hfault
    simp [hnot]
  | unknown _ _ hdecode => simp [not_runsAt_of_unknown hdecode]
  | @completes i hruns =>
    simp only [State.finishStep_randIn, State.finishStep_randDraws, Option.any_some, completed_randIn,
      completed_randDraws, State.advancePc_randIn, State.advancePc_randDraws, runsAt_iff_eq hruns]
    refine ⟨fun hrnd => ?_, fun hother => ?_⟩
    · simp [(consumesRand_iff i).mpr hrnd]
    · have hnot : ¬ consumesRand i = true := fun h => by
        obtain ⟨x, kk, hi⟩ := (consumesRand_iff i).mp h
        exact hother x kk hi
      simp [hnot]

/-! ### Faults -/

/-- A fault the table gives is the one the step raises. -/
theorem step_of_stepFault {s : State} {code : FaultCode} {info : Word} (hf : s.faulted = false)
    (h : stepFault s = some (code, info)) :
    step s = .next (s.recordFault code s.pc (if s.pc.toNat > 0xFFE then 0 else s.opcodeAtPc) info) := by
  obtain ⟨t, hstep, houtcome⟩ := exists_stepOutcome s
  cases houtcome with
  | idle hfaulted => exact absurd hfaulted (ne_true_of_eq_false hf)
  | faults _ hfault =>
    cases hfault.symm.trans h
    exact hstep
  | unknown _ hpc hdecode =>
    rw [stepFault, if_neg (Nat.not_lt.mpr hpc), hdecode] at h
    cases h
  | completes hruns hfault =>
    rw [stepFault_of_runsAt hruns, hfault] at h
    cases h

/-- Where the table gives no fault the step completes and leaves the record alone. -/
theorem step_of_no_stepFault {s : State} (hf : s.faulted = false) (h : stepFault s = none) :
    ∃ t, step s = .next t ∧ SameRecord s t := by
  obtain ⟨t, hstep, houtcome⟩ := exists_stepOutcome s
  refine ⟨t, hstep, ?_⟩
  cases houtcome with
  | idle hfaulted => exact absurd hfaulted (ne_true_of_eq_false hf)
  | faults _ hfault => cases h.symm.trans hfault
  | unknown => exact ⟨rfl, rfl, rfl, rfl, rfl⟩
  | @completes i => exact sameRecord_completed s.advancePc i

/-- Settles O24: the table of faults decides which way a step of an unfaulted state ends. -/
theorem faultsAreExactlyTheListedOnesAndPrecise : Obligations.FaultsAreExactlyTheListedOnesAndPrecise := by
  unfold Obligations.FaultsAreExactlyTheListedOnesAndPrecise
  exact fun _ hf => ⟨fun _ _ => step_of_stepFault hf, step_of_no_stepFault hf⟩

/-- Settles O25: the idle step. -/
theorem faultedCoreIsInert : Obligations.FaultedCoreIsInert := by
  unfold Obligations.FaultedCoreIsInert
  exact fun _ => step_faulted

end Sys2Proof.Machine
end

section
/-! SUPPORT. The statements of 70_reset_and_hazards.md and 20_memory.md about memory: the canonical form, `load` and
`reset`. -/

namespace Sys2Proof.Machine
open Sys2Proof.Claims

/-! ### In the canonical form the bytes determine the list (log 6) -/

/-- A listed cell is what its address reads as, when addresses rise. -/
theorem Memory.read_of_mem {m : Memory} (hrising : m.Pairwise fun c d => c.1 < d.1) {c : Host.Cell}
    (hc : c ∈ m) : m.read c.1 = c.2 := by
  induction m with
  | nil => cases hc
  | cons cell rest ih =>
    obtain ⟨hfirst, hrest⟩ := List.pairwise_cons.mp hrising
    rcases List.mem_cons.mp hc with rfl | hc
    · exact if_pos rfl
    · exact (if_neg (Nat.ne_of_lt (hfirst c hc))).trans (ih hrest hc)

/-- An address that does not read as its reset contents is listed. -/
theorem Memory.mem_of_read_ne {m : Memory} {a : Nat} (h : m.read a ≠ Memory.resetByte a) : (a, m.read a) ∈ m := by
  induction m with
  | nil => exact absurd rfl h
  | cons cell rest ih =>
    by_cases ha : cell.1 = a
    · have hread : Memory.read (cell :: rest) a = cell.2 := if_pos ha
      rw [hread, ← ha]
      exact List.mem_cons_self
    · have hread : Memory.read (cell :: rest) a = Memory.read rest a := if_neg ha
      rw [hread] at h ⊢
      exact List.mem_cons_of_mem _ (ih h)

/-- In the canonical form exactly the bytes that differ from their reset contents are listed. -/
theorem Memory.mem_iff_of_wf {m : Memory} (h : m.wf) (c : Host.Cell) :
    c ∈ m ↔ c.1 < 4096 ∧ m.read c.1 = c.2 ∧ c.2 ≠ Memory.resetByte c.1 := by
  obtain ⟨hrising, hcells⟩ := h
  constructor
  · intro hc
    exact ⟨(hcells c hc).1, Memory.read_of_mem hrising hc, (hcells c hc).2⟩
  · rintro ⟨-, hread, hne⟩
    have hmem := Memory.mem_of_read_ne (m := m) (a := c.1) (by rwa [hread])
    rwa [hread] at hmem

/-- Settles O6: the two lists have the same cells, in the same rising order. -/
theorem canonicalMemoriesWithEqualBytesAreEqual : Obligations.CanonicalMemoriesWithEqualBytesAreEqual := by
  unfold Obligations.CanonicalMemoriesWithEqualBytesAreEqual
  intro m m' hm hm' hread
  have hsame (c : Host.Cell) : c ∈ m ↔ c ∈ m' := by
    rw [Memory.mem_iff_of_wf hm, Memory.mem_iff_of_wf hm']
    exact and_congr_right fun hlt => by rw [hread c.1 hlt]
  have hnodup {l : Memory} (hl : l.wf) : l.Nodup := 
    hl.1.imp fun {c d} hlt (heq : c = d) => absurd hlt (heq ▸ Nat.lt_irrefl _)
  have hperm : m.Perm m' := (List.perm_ext_iff_of_nodup (hnodup hm) (hnodup hm')).mpr hsame
  exact hperm.eq_of_pairwise (fun c d _ _ hcd hdc => absurd hcd (Nat.lt_asymm hdc)) hm.1 hm'.1

/-! ### `load` and `reset` -/

/-- Settles O7: `load` is one run of writes from 0x200. -/
theorem loadCopiesRomVerbatim : Obligations.LoadCopiesRomVerbatim := by
  unfold Obligations.LoadCopiesRomVerbatim
  intro s rom hlen
  refine ⟨_, congrArg Host.Outcome.next (load_fits s rom hlen), fun k hk => ?_, fun a ha => ?_, rfl⟩
  · have hbyte : (s.mem.writeBytes 0x200 rom).read (0x200 + k) = rom.getD k 0 :=
      Memory.read_writeBytes_inside _ _ _ _ hk
    rw [hbyte, List.getD_eq_getElem?_getD, List.getElem?_eq_getElem hk, Option.getD_some]
  · exact Memory.read_writeBytes_outside _ _ _ _ (by omega)

/-- Settles O8: `load` reports and writes nothing. -/
theorem loadRefusesTooLargeRom : Obligations.LoadRefusesTooLargeRom := by
  unfold Obligations.LoadRefusesTooLargeRom
  intro s rom hlen
  exact ⟨_, congrArg Host.Outcome.next (load_too_large s rom hlen), rfl, fun _ => rfl, rfl⟩

/-- Settles O2: core state is that of `State.reset`, the inputs are the old ones. -/
theorem resetTransactionRecreatesConstruction : Obligations.ResetTransactionRecreatesConstruction := by
  unfold Obligations.ResetTransactionRecreatesConstruction
  intro s
  have hregs (r : Reg) : s.hostReset.getV r = 0 := State.reset_getV r
  have hpixels (px py : Nat) : s.hostReset.fb.pixel px py = false := pixel_clear px py
  exact ⟨s.hostReset, rfl, hregs, rfl, rfl, rfl, rfl, rfl, rfl, fun _ => rfl, hpixels, ⟨rfl, rfl, rfl, rfl, rfl⟩,
    rfl, rfl, rfl, rfl, rfl⟩

end Sys2Proof.Machine
end

section
/-! SUPPORT. The invariant: kept by every step and every transaction; and what a faulted state keeps until `reset`. -/

namespace Sys2Proof.Machine
open Sys2Proof.Claims

/-! ### The fault record tells its cause (60_exceptions.md R221, R224) -/

/-- With no fault the record is all zero, and that is all the consistency there is. -/
theorem recordConsistent_iff_of_unfaulted {s : State} (h : s.faulted = false) :
    s.recordConsistent ↔ s.faultCode = .none ∧ s.faultPc = 0 ∧ s.faultOpcode = 0 ∧ s.faultInfo = 0 := by
  constructor
  · rintro ⟨hcode, -, hrecord⟩
    have hnone : s.faultCode = .none := by
      by_contra hne
      exact absurd (hcode.mpr hne) (ne_true_of_eq_false h)
    rw [hnone] at hrecord
    exact ⟨hnone, hrecord⟩
  · rintro ⟨hnone, hrecord⟩
    refine ⟨by simp [h, hnone], by simp [h], ?_⟩
    rw [hnone]
    exact hrecord

/-- A step that leaves the record alone keeps it consistent. -/
theorem recordConsistent_of_sameRecord {s t : State} (hf : s.faulted = false) (hs : s.recordConsistent)
    (h : SameRecord s t) : t.recordConsistent := by
  obtain ⟨hfaulted, hcode, hpc, hopcode, hinfo⟩ := h
  rw [recordConsistent_iff_of_unfaulted (hfaulted.trans hf), hcode, hpc, hopcode, hinfo]
  exact (recordConsistent_iff_of_unfaulted hf).mp hs

/-- The information of a data fault is the lowest address above 0xFFF, as a number (R67). -/
theorem lowestBad_toNat (s : State) : (lowestBad s).toNat = max s.i.toNat 0x1000 := by
  have hi : s.i.toNat < 65536 := s.i.isLt
  rw [lowestBad, BitVec.toNat_ofNat]
  exact Nat.mod_eq_of_lt (by omega)

/-- Recording the fault an instruction raises gives a consistent record: the condition of the code holds. -/
theorem recordConsistent_of_instrFault {s : State} {i : Instr} {code : FaultCode} {info : Word}
    (h : instrFault i s = some (code, info)) : (s.recordFault code s.pc (encode i) info).recordConsistent := by
  have hlow := lowestBad_toNat s
  cases i with
  | call nnn =>
    obtain ⟨hsp, rfl, rfl⟩ := fault_of_ite h
    exact ⟨by simp, fun _ => ⟨rfl, rfl⟩, hsp, nnn, rfl, rfl⟩
  | ret =>
    obtain ⟨hsp, rfl, rfl⟩ := fault_of_ite h
    exact ⟨by simp, fun _ => ⟨rfl, rfl⟩, hsp, rfl, rfl⟩
  | drw x y n =>
    obtain ⟨⟨hn, hi⟩, rfl, rfl⟩ := fault_of_ite h
    exact ⟨by simp, fun _ => ⟨rfl, rfl⟩, hlow, .inr (.inr (.inr ⟨x, y, n, rfl, hn, hi⟩))⟩
  | ldB x =>
    obtain ⟨hi, rfl, rfl⟩ := fault_of_ite h
    exact ⟨by simp, fun _ => ⟨rfl, rfl⟩, hlow, .inl ⟨x, rfl, hi⟩⟩
  | ldMemVx x =>
    obtain ⟨hi, rfl, rfl⟩ := fault_of_ite h
    exact ⟨by simp, fun _ => ⟨rfl, rfl⟩, hlow, .inr (.inl ⟨x, rfl, hi⟩)⟩
  | ldVxMem x =>
    obtain ⟨hi, rfl, rfl⟩ := fault_of_ite h
    exact ⟨by simp, fun _ => ⟨rfl, rfl⟩, hlow, .inr (.inr (.inl ⟨x, rfl, hi⟩))⟩
  | skp x =>
    obtain ⟨hkey, rfl, rfl⟩ := fault_of_ite h
    exact ⟨by simp, fun _ => ⟨rfl, rfl⟩, x, .inl rfl, hkey, rfl⟩
  | sknp x =>
    obtain ⟨hkey, rfl, rfl⟩ := fault_of_ite h
    exact ⟨by simp, fun _ => ⟨rfl, rfl⟩, x, .inr rfl, hkey, rfl⟩
  | _ => cases h

/-- Recording the fault of a step gives a consistent record. -/
theorem recordConsistent_of_stepFault {s : State} {code : FaultCode} {info : Word}
    (h : stepFault s = some (code, info)) :
    (s.recordFault code s.pc (if s.pc.toNat > 0xFFE then 0 else s.opcodeAtPc) info).recordConsistent := by
  by_cases hp : s.pc.toNat > 0xFFE
  · rw [stepFault, if_pos hp] at h
    cases h
    rw [if_pos hp]
    exact ⟨by simp, fun _ => ⟨rfl, rfl⟩, hp, rfl, rfl⟩
  · rw [stepFault, if_neg hp] at h
    rw [if_neg hp]
    cases hd : decodeOpcode s.opcodeAtPc with
    | error r => rw [hd] at h; cases h
    | ok i =>
      rw [hd] at h
      rw [← encode_of_decodeOpcode hd]
      exact recordConsistent_of_instrFault h

/-- Clearing `FB_UPDATED` keeps a consistent record. -/
theorem recordConsistent_idleStep {s : State} (h : s.recordConsistent) : s.idleStep.recordConsistent := by
  obtain ⟨hcode, hplace, hcause⟩ := h
  exact ⟨hcode, fun hf => ⟨(hplace hf).1, rfl⟩, hcause⟩

/-! ### The invariant -/

theorem inv_of_step {s t : State} (hs : s.Inv) (hstep : step s = .next t) : t.Inv := by
  obtain ⟨hmem, hrecord⟩ := hs
  cases stepOutcome_of_step hstep with
  | idle => exact ⟨hmem, recordConsistent_idleStep hrecord⟩
  | faults _ hfault => exact ⟨hmem, recordConsistent_of_stepFault hfault⟩
  | unknown hf => exact ⟨hmem, recordConsistent_of_sameRecord hf hrecord ⟨rfl, rfl, rfl, rfl, rfl⟩⟩
  | @completes i hruns hfault =>
    have hfault' : instrFault i s.advancePc = none := by rwa [instrFault_advancePc]
    exact ⟨completed_mem_wf hfault' hmem,
      recordConsistent_of_sameRecord hruns.1 hrecord (sameRecord_completed s.advancePc i)⟩

/-- Settles O4: a step leaves memory and record alone, or stores in range, or records the fault whose condition
holds. -/
theorem stepKeepsInvariant : Obligations.StepKeepsInvariant := by
  unfold Obligations.StepKeepsInvariant
  exact fun _ _ => inv_of_step

theorem inv_reset : State.reset.Inv :=
  ⟨Memory.wf_nil, (recordConsistent_iff_of_unfaulted rfl).mpr ⟨rfl, rfl, rfl, rfl⟩⟩

/-- Settles O3: memory lists nothing and the record is all zero. -/
theorem resetMeetsTheInvariant : Obligations.ResetMeetsTheInvariant := by
  unfold Obligations.ResetMeetsTheInvariant
  exact inv_reset

theorem inv_load {s : State} (rom : List Byte) (h : s.Inv) : (s.load rom).Inv := by
  obtain ⟨hmem, hrecord⟩ := h
  by_cases hlen : rom.length ≤ 3584
  · have hfits : 0x200 + rom.length ≤ 4096 := by omega
    rw [load_fits s rom hlen]
    exact ⟨Memory.wf_writeBytes rom s.mem 0x200 hfits hmem, hrecord⟩
  · rw [load_too_large s rom (Nat.not_le.mp hlen)]
    exact ⟨hmem, hrecord⟩

/-- Every transaction completes and keeps the invariant. -/
theorem transact_keeps_inv (tr : Transaction) {s : State} (h : s.Inv) : ∃ t, transact tr s = .next t ∧ t.Inv := by
  cases tr with
  | reset => exact ⟨_, rfl, inv_reset⟩
  | load rom => exact ⟨_, rfl, inv_load rom h⟩
  | step keys rand =>
    obtain ⟨t, ht⟩ := step_total (s.present keys rand)
    exact ⟨t, ht, inv_of_step (s := s.present keys rand) h ht⟩

theorem transactAll_cons {tr : Transaction} {ts : List Transaction} {s t : State} (h : transact tr s = .next t) :
    transactAll (tr :: ts) s = transactAll ts t := by
  rw [transactAll, h]

/-- Settles O5, by induction on the sequence. -/
theorem everyRunOfTransactionsKeepsInvariant : Obligations.EveryRunOfTransactionsKeepsInvariant := by
  unfold Obligations.EveryRunOfTransactionsKeepsInvariant
  intro ts
  induction ts with
  | nil => exact fun s h => ⟨s, rfl, h⟩
  | cons tr ts ih =>
    intro s h
    obtain ⟨t, ht, hinv⟩ := transact_keeps_inv tr h
    rw [transactAll_cons ht]
    exact ih t hinv

/-! ### Until `reset` a faulted state keeps its record (60_exceptions.md R228, 70_reset_and_hazards.md R258) -/

/-- Nothing differs from `s` to `t` but memory, `LOAD_STATUS`, `FB_UPDATED` and the host's inputs. -/
def SameButLoadAndInputs (s t : State) : Prop :=
  t = { s with mem := t.mem, loadStatus := t.loadStatus, fbUpdated := t.fbUpdated, keys := t.keys,
               randIn := t.randIn }

theorem SameButLoadAndInputs.trans {s t u : State} (hst : SameButLoadAndInputs s t)
    (htu : SameButLoadAndInputs t u) : SameButLoadAndInputs s u := by
  rw [SameButLoadAndInputs] at hst
  rw [hst] at htu
  exact htu

theorem SameButLoadAndInputs.sameRecord {s t : State} (h : SameButLoadAndInputs s t) : SameRecord s t := by
  rw [h]
  exact ⟨rfl, rfl, rfl, rfl, rfl⟩

theorem sameButLoadAndInputs_load (s : State) (rom : List Byte) : SameButLoadAndInputs s (s.load rom) := by
  by_cases hlen : rom.length ≤ 3584
  · rw [load_fits s rom hlen]
    rfl
  · rw [load_too_large s rom (Nat.not_le.mp hlen)]
    rfl

theorem transact_of_faulted {s : State} (hf : s.faulted = true) {tr : Transaction} (hreset : tr ≠ .reset) :
    ∃ t, transact tr s = .next t ∧ SameButLoadAndInputs s t := by
  cases tr with
  | reset => exact absurd rfl hreset
  | load rom => exact ⟨_, rfl, sameButLoadAndInputs_load s rom⟩
  | step keys rand => exact ⟨_, step_faulted (s := s.present keys rand) hf, rfl⟩

/-- Settles O26, by induction on the sequence. -/
theorem onlyResetLeavesTheFaultedState : Obligations.OnlyResetLeavesTheFaultedState := by
  unfold Obligations.OnlyResetLeavesTheFaultedState
  intro ts
  induction ts with
  | nil => exact fun s _ _ => ⟨s, rfl, ⟨rfl, rfl, rfl, rfl, rfl⟩, rfl⟩
  | cons tr ts ih =>
    intro s hf hreset
    obtain ⟨t, ht, hst⟩ := transact_of_faulted hf (List.ne_of_not_mem_cons hreset).symm
    have htf : t.faulted = true := hst.sameRecord.1.trans hf
    obtain ⟨u, hu, -, htu⟩ := ih t htf (List.not_mem_of_not_mem_cons hreset)
    have hsu : SameButLoadAndInputs s u := hst.trans htu
    exact ⟨u, (transactAll_cons ht).trans hu, hsu.sameRecord, hsu⟩

end Sys2Proof.Machine
end

section
/-! SUPPORT. The host's inputs: which steps read them (40_cycle.md R102), and the transaction that presents them
(10_state.md R51). -/

namespace Sys2Proof.Machine
open Sys2Proof.Claims

/-- The same state with other contents of the three input fields. -/
def State.withInputs (s : State) (keys : BitVec 16) (r : Option Byte) (d : Nat) : State :=
  { s with keys := keys, randIn := r, randDraws := d }

section
variable (s : State) (keys : BitVec 16) (r : Option Byte) (d : Nat)

theorem skipIf_withInputs (b : Bool) : (s.withInputs keys r d).skipIf b = (s.skipIf b).withInputs keys r d := by
  cases b <;> rfl

/-- No fault condition reads an input. -/
theorem instrFault_withInputs (i : Instr) : instrFault i (s.withInputs keys r d) = instrFault i s := by
  cases i <;> rfl

theorem stepFault_withInputs : stepFault (s.withInputs keys r d) = stepFault s := by
  simp only [stepFault, instrFault_withInputs]
  rfl

/-- An instruction that reads no input does the same whatever they are. -/
theorem completed_withInputs {i : Instr} (h : readsInputs i = false) :
    completed i (s.withInputs keys r d) = (completed i s).withInputs keys r d := by
  cases i with
  | seImm | sneImm | seReg | sneReg => exact skipIf_withInputs s keys r d _
  | skp | sknp | ldVxK | rnd => cases h
  | _ => rfl

/-- The end of a step that consumes no random byte leaves the inputs as they are. -/
theorem finishStep_withInputs {o : Option Instr} (h : o.any consumesRand = false) :
    (s.withInputs keys r d).finishStep o = (s.finishStep o).withInputs keys r d := by
  simp only [State.finishStep, State.withInputs, h, Bool.false_eq_true, if_false]

end

/-- `Cxkk` is among the instructions that read an input. -/
theorem consumesRand_of_not_readsInputs {i : Instr} (h : readsInputs i = false) : consumesRand i = false := by
  cases i with
  | rnd => cases h
  | _ => rfl

/-- Settles O21: no way a step can end looks at the inputs, but for the four instructions. -/
theorem otherStepsDoNotDependOnInputs : Obligations.OtherStepsDoNotDependOnInputs := by
  unfold Obligations.OtherStepsDoNotDependOnInputs
  intro s t keys r d hreads hstep
  change step (s.withInputs keys r d) = .next (t.withInputs keys r d)
  cases stepOutcome_of_step hstep with
  | idle hfaulted => exact step_faulted (s := s.withInputs keys r d) hfaulted
  | faults hf hfault =>
    exact step_of_stepFault (s := s.withInputs keys r d) hf ((stepFault_withInputs s keys r d).trans hfault)
  | unknown hf hpc hdecode =>
    have hend := finishStep_withInputs s.advancePc keys r d (o := none) rfl
    exact (step_unknown (s := s.withInputs keys r d) hf hpc hdecode).trans (congrArg Host.Outcome.next hend)
  | @completes i hruns hfault =>
    have hreads_i : readsInputs i = false := hreads i hruns
    have hend := finishStep_withInputs (completed i s.advancePc) keys r d (o := some i)
      (consumesRand_of_not_readsInputs hreads_i)
    rw [← completed_withInputs _ keys r d hreads_i] at hend
    exact (step_completes (s := s.withInputs keys r d) hruns
      ((instrFault_withInputs s keys r d i).trans hfault)).trans (congrArg Host.Outcome.next hend)

/-! ### The transaction `step(KEYS, RAND)` -/

section
variable {s : State} {i : Instr} (keys : BitVec 16) (rand : Byte)

/-- The transaction at an instruction that raises no fault: the instruction completed with the presented inputs. -/
theorem transact_step_completes (hruns : RunsAt s i) (hfault : instrFault i s = none) :
    transact (.step keys rand) s =
      .next ((completed i (s.present keys rand).advancePc).finishStep (some i)) :=
  step_completes (s := s.present keys rand) hruns
    ((instrFault_withInputs s keys (some rand) s.randDraws i).trans hfault)

/-- Such a transaction leaves no fault, and `pc` where the table says for the presented inputs. -/
theorem transact_step_unfaulted_pc (hruns : RunsAt s i) (hfault : instrFault i s = none) :
    ∃ t, transact (.step keys rand) s = .next t ∧ t.faulted = false ∧ t.pc = pcAfter i (s.present keys rand) :=
  ⟨_, transact_step_completes keys rand hruns hfault, (completed_faulted _ _).trans hruns.1, completed_pc i _⟩

/-- `Cxkk` masks the presented byte. -/
theorem transact_step_rnd {x : Reg} {kk : Byte} (hruns : RunsAt s (.rnd x kk)) :
    ∃ t, transact (.step keys rand) s = .next t ∧
      (∀ b, (t.getV x).getLsbD b = (rand.getLsbD b && kk.getLsbD b)) ∧ t.pc = s.pc + 2 := by
  refine ⟨_, transact_step_completes keys rand hruns rfl, fun b => ?_, rfl⟩
  have hval : (completed (.rnd x kk) (s.present keys rand).advancePc).getV x = rand &&& kk :=
    State.getV_setV_same _ x _
  rw [State.getV_finishStep, hval, BitVec.getLsbD_and]

/-- `Fx0A` waits on the sample: with no key of it pressed nothing is written, else its least key is latched. -/
theorem transact_step_ldVxK {x : Reg} (hruns : RunsAt s (.ldVxK x)) :
    ∃ t, transact (.step keys rand) s = .next t ∧
      ((∀ k, k < 16 → keys.getLsbD k = false) → t.pc = s.pc ∧ t.v = s.v) ∧
      (∀ k, k < 16 → keys.getLsbD k = true → (∀ j, j < k → keys.getLsbD j = false) →
        (t.getV x).toNat = k ∧ t.pc = s.pc + 2) := by
  refine ⟨_, transact_step_completes keys rand hruns rfl, fun hnone => ?_, fun k hk hpressed hleast => ?_⟩
  · have hscan : (s.present keys rand).advancePc.firstPressed = none := (firstPressed_none_iff _).mpr hnone
    have hstay : completed (.ldVxK x) (s.present keys rand).advancePc = s.present keys rand :=
      (afterKeyWait_of_none x hscan).trans (rewindPc_advancePc _)
    rw [hstay]
    exact ⟨rfl, rfl⟩
  · have hscan : (s.present keys rand).advancePc.firstPressed = some k :=
      (firstPressed_some_iff _ k).mpr ⟨hk, hpressed, hleast⟩
    have hlatch : completed (.ldVxK x) (s.present keys rand).advancePc =
        (s.present keys rand).advancePc.setV x (BitVec.ofNat 8 k) := afterKeyWait_of_some x hscan
    rw [hlatch, State.getV_finishStep, State.getV_setV_same]
    exact ⟨keyNumber_toNat hk, rfl⟩

end

/-- Settles O51: each of the four instructions completes with the presented inputs, which is all that the input fields
held when the step began. -/
theorem stepTransactionRunsWithThePresentedInputs : Obligations.StepTransactionRunsWithThePresentedInputs := by
  unfold Obligations.StepTransactionRunsWithThePresentedInputs
  intro s keys rand x kk
  refine ⟨transact_step_rnd keys rand, fun hruns hkey => ?_, fun hruns hkey => ?_, transact_step_ldVxK keys rand,
    fun _ _ => rfl, ?_⟩
  · exact transact_step_unfaulted_pc keys rand hruns (if_neg (Nat.not_lt.mpr hkey))
  · exact transact_step_unfaulted_pc keys rand hruns (if_neg (Nat.not_lt.mpr hkey))
  · obtain ⟨t, ht⟩ := step_total (s.present keys rand)
    exact ⟨t, ht, step_keys ht⟩

end Sys2Proof.Machine
end

section
/-! SUPPORT. Steps that stay where they are, the parked core (60_exceptions.md R237) and the key wait
(45_keypad_timer.md R204), and the opcode placed for the next step (log 8). -/

namespace Sys2Proof.Machine
open Sys2Proof.Claims

/-! ### The parked core -/

theorem fetch_eq_some {s : State} {op : Opcode} (h : s.fetch = some op) :
    s.pc.toNat ≤ 0xFFE ∧ s.opcodeAtPc = op := by
  rw [State.fetch] at h
  split at h
  · cases h
  · cases h
    exact ⟨Nat.not_lt.mp ‹_›, rfl⟩

/-- A jump to the instruction itself takes the advance of `pc` back. -/
theorem jump_advancePc_self (s : State) : s.advancePc.jump s.pc = s := rfl

/-- Settles O22: the jump leads back to itself, so only the end of the step changes the state. -/
theorem parkedCoreStaysParked : Obligations.ParkedCoreStaysParked := by
  unfold Obligations.ParkedCoreStaysParked
  rintro s hsafe ⟨nnn, hfetch, hself⟩
  obtain ⟨hpc, hop⟩ := fetch_eq_some hfetch
  have hruns : RunsAt s (.jp nnn) := ⟨hsafe, hpc, hop ▸ decodeOpcode_encode _⟩
  have hstay : completed (.jp nnn) s.advancePc = s :=
    (congrArg s.advancePc.jump hself.symm).trans (jump_advancePc_self s)
  have hstep := step_completes hruns rfl
  rw [hstay] at hstep
  exact ⟨_, hstep, hsafe, ⟨nnn, hfetch, hself⟩, tick_toNat s.dt, tick_toNat s.st, rfl⟩

/-! ### The key wait -/

/-- With no key pressed the step of `Fx0A` changes only what the end of a step changes. -/
theorem step_keyWait {s : State} {x : Reg} (hruns : RunsAt s (.ldVxK x)) (hkeys : s.keys = 0) :
    step s = .next (s.finishStep (some (.ldVxK x))) := by
  have hscan : s.advancePc.firstPressed = none := (firstPressed_none_iff_keys s.advancePc).mpr hkeys
  have hstay : completed (.ldVxK x) s.advancePc = s := (afterKeyWait_of_none x hscan).trans (rewindPc_advancePc s)
  rw [step_completes hruns rfl, hstay]

/-- A run of a machine is its first step and the rest of the run. -/
theorem core_run_succ {M : Host.Core} {s t : M.State} (n : Nat) (h : M.step s = .next t) :
    M.run (n + 1) s = M.run n t := by
  rw [Host.Core.run, h]

/-- Settles O48, by induction on the number of steps: the state after one is again about to wait, with no key. -/
theorem keyWaitStallsWhileNoKeyIsPressed : Obligations.KeyWaitStallsWhileNoKeyIsPressed := by
  unfold Obligations.KeyWaitStallsWhileNoKeyIsPressed
  intro n
  induction n with
  | zero =>
    intro s x hruns hkeys
    exact ⟨_, core_run_succ (M := Sys2Proof.core) 0 (step_keyWait hruns hkeys), tick_toNat s.dt,
      tick_toNat s.st, rfl⟩
  | succ n ih =>
    intro s x hruns hkeys
    obtain ⟨t, hrun, hdt, hst, hrest⟩ := ih (s.finishStep (some (.ldVxK x))) x hruns hkeys
    refine ⟨t, ?_, ?_, ?_, hrest⟩
    · exact (core_run_succ (M := Sys2Proof.core) (n + 1) (step_keyWait hruns hkeys)).trans hrun
    · rw [hdt, State.finishStep_dt, tick_toNat]
      omega
    · rw [hst, State.finishStep_st, tick_toNat]
      omega

/-! ### The placed opcode -/

/-- An instruction's opcode as a table word is placed whole. -/
theorem withFetchWord_encode (s : State) (i : Instr) :
    s.withFetchWord 16 (encode i).toNat = s.readyToFetch.placeOpcode (encode i) := by
  rw [State.withFetchWord, Nat.mod_eq_of_lt (encode i).isLt, BitVec.ofNat_toNat, BitVec.setWidth_eq]

theorem runsAt_placeOpcode_encode {s : State} (hf : s.faulted = false) (hpc : s.pc.toNat ≤ 0xFFE) (i : Instr) :
    RunsAt (s.placeOpcode (encode i)) i := by
  refine ⟨hf, hpc, ?_⟩
  rw [opcodeAtPc_placeOpcode, decodeOpcode_encode]

/-- Placing an opcode changes the two bytes at `pc` only. -/
theorem placeOpcode_read_other (s : State) (op : Opcode) {a : Nat} (h : a ≠ s.pc.toNat) (h' : a ≠ s.pc.toNat + 1) :
    (s.placeOpcode op).mem.read a = s.mem.read a := by
  refine Memory.read_writeBytes_outside _ _ _ _ ?_
  show ¬ (s.pc.toNat ≤ a ∧ a < s.pc.toNat + 2)
  omega

/-- Settles O23: the readied state fetches, and decodes what was encoded; a state that can fetch needs no readying. -/
theorem placedOpcodeIsFetchedNext : Obligations.PlacedOpcodeIsFetchedNext := by
  unfold Obligations.PlacedOpcodeIsFetchedNext
  intro s i
  rw [withFetchWord_encode]
  refine ⟨runsAt_placeOpcode_encode (readyToFetch_faulted s) (readyToFetch_pc_le s) i, fun hf hpc => ?_⟩
  rw [readyToFetch_of_ready hf hpc]
  exact ⟨rfl, fun a => placeOpcode_read_other s (encode i)⟩

end Sys2Proof.Machine
end
